-- ==== Sys2Proof/Word.lean ====
section
/-! DEFINITION. The words of ACA-CORE: the widths of rules R7, R22, R23 and R60, each under the name the spec uses for it.
Bit 0 is the least significant bit of every word (R11). -/

namespace Sys2Proof

/-- A linear sample: a 16-bit word whose value is `sint` of it, -32768..32767 (R7). -/
abbrev Sample := BitVec 16

/-- A G.711 code, 0..255 (R7). -/
abbrev Code8 := BitVec 8

/-- An ADPCM code, 0..15 (R7). -/
abbrev Code4 := BitVec 4

/-- The `op` field of a command, CMD bits 18:16 (R22, R60). -/
abbrev OpField := BitVec 3

/-- A command word CMD: `op` in bits 18:16, `din` in bits 15:0 (R60). -/
abbrev CmdWord := BitVec 19

/-- An ADPCM state word ST: `pred` in bits 23:8, `idx` in bits 7:0 (R60). -/
abbrev StWord := BitVec 24

/-- The result port DOUT (R23). -/
abbrev Dout := BitVec 16

end Sys2Proof
end

