-- ==== Sys2Proof/Config.lean ====
section
/-! DEFINITION. The implementation parameters of rules R8, R9 and R10. An implementation hard-wires them (R172); the model
holds one `Config` in its state, no step writes it, and every statement about all states is a statement about all
parameter values. Log entry 1. -/

namespace Sys2Proof

/-- `NEG_MAG` (R8): how the A-law and mu-law encoders form the magnitude of a negative sample (R81, R101). -/
inductive NegMag where
  /-- The magnitude of x is -x-1: the default. -/
  | onesComplement
  /-- The magnitude of x is |x|, clipped to 32767. -/
  | absolute
  /-- The sample is scaled down to the law's domain first, then negated. -/
  | shiftThenNegate
  deriving DecidableEq, Repr

/-- `IDX_OOR` (R9): how the ADPCM unit treats a step index above 88 on its input (R121). -/
inductive IdxOor where
  /-- The clamped index enters the lookup and the index update: the default. -/
  | clampFirst
  /-- The clamped index enters the lookup, the raw index enters the update. -/
  | rawSum
  deriving DecidableEq, Repr

/-- The parameters of one implementation. `nInst` is `N_INST` (R10), a positive integer, read by no instruction. -/
structure Config where
  negMag : NegMag
  idxOor : IdxOor
  nInst  : Nat
  deriving DecidableEq, Repr

/-- The default parameters: `ONES_COMPLEMENT` (R8) and `CLAMP_FIRST` (R9).
DESIGN CHOICE: the spec gives `N_INST` no default; one core is taken (log entry 1). -/
def Config.default : Config :=
  { negMag := .onesComplement, idxOor := .clampFirst, nInst := 1 }

end Sys2Proof
end

