-- ==== Sys2Proof/Syntax.lean ====
section
/-! DEFINITION. The commands of ACA-CORE, one constructor per row of spec/opcode_table.json (R64). An operand is the word
rule R61 takes from `din`; the bits R61 marks ignored name no part of a command (R62, R66), so they have no field here. -/

namespace Sys2Proof

/-- A decoded command. Every operand type holds exactly the operand range of rule R7. -/
inductive Instr where
  /-- ALAW.ENC, op 0b000 (R88): encode a linear sample to an A-law code. -/
  | alawEnc (sample : Sample)
  /-- ALAW.DEC, op 0b001 (R89): decode an A-law code, `din[7:0]`. -/
  | alawDec (code : Code8)
  /-- ULAW.ENC, op 0b010 (R109): encode a linear sample to a mu-law code. -/
  | ulawEnc (sample : Sample)
  /-- ULAW.DEC, op 0b011 (R110): decode a mu-law code, `din[7:0]`. -/
  | ulawDec (code : Code8)
  /-- ADPCM.ENC, op 0b100 (R130): encode a sample against the ADPCM state. -/
  | adpcmEnc (sample : Sample)
  /-- ADPCM.DEC, op 0b101 (R131): decode a code, `din[3:0]`, against the ADPCM state. -/
  | adpcmDec (code : Code4)
  /-- The reserved op value 0b110 (R65, R151); `din` is not read. -/
  | reservedOp110
  /-- The reserved op value 0b111 (R65, R151); `din` is not read. -/
  | reservedOp111
  deriving DecidableEq, Repr

end Sys2Proof
end

