-- ==== Sys2Proof/Syntax/Source.lean ====
section
/-! DEFINITION. The source items of the assembler (R67, R68, R70): what one non-blank source line says, before its literals
are checked against their ranges. -/

namespace Sys2Proof

/-- The six mnemonics of rule R68. There are no pseudo-instructions (R71). -/
inductive Mnemonic where
  | alawEnc | alawDec | ulawEnc | ulawDec | adpcmEnc | adpcmDec
  deriving DecidableEq, Repr

/-- A numeric literal (R67): a decimal integer, or a hexadecimal one `0x..`. -/
inductive Literal where
  | dec (v : Int)
  | hex (v : Nat)
  deriving DecidableEq, Repr

/-- One item of source text: a command with its operand (R68), a raw word `.word <hex19>` (R68), or the harness
directive `.state <pred>, <idx>` (R70). -/
inductive SrcItem where
  | command (m : Mnemonic) (operand : Literal)
  | rawWord (v : Nat)
  | state (pred idx : Literal)
  deriving DecidableEq, Repr

end Sys2Proof
end

