-- ==== Sys2Proof/WellFormed.lean ====
section
/-! DEFINITION. The checks the spec makes on what a host writes: the parameters, the canonical form of a command word, the
legal range of a state word, and the literal ranges of a source item. An `Instr` needs no check of its own: the types
of its operands hold exactly the ranges of rule R7, and no command with op 0b000..0b101 is illegal whatever its `din`
(R65, R150). -/

namespace Sys2Proof

/-- `N_INST` is a positive integer (R10); `NEG_MAG` and `IDX_OOR` take only the values of R8 and R9, by type. -/
def Config.wellFormed (p : Config) : Bool :=
  decide (0 < p.nInst)

/-- The bits of `din` that rule R61 marks ignored, for each op value.
DESIGN CHOICE: R61 has no row for a reserved op and R66 does not say which of its words is canonical; the model counts all
16 bits of its `din` as ignored, none being read (R151), so 0x60000 and 0x70000 are the canonical ones (log entry 15). -/
def ignoredMask (op : OpField) : BitVec 16 :=
  if op = 0b001#3 ∨ op = 0b011#3 then 0xFF00#16
  else if op = 0b101#3 then 0xFFF0#16
  else if op = 0b110#3 ∨ op = 0b111#3 then 0xFFFF#16
  else 0x0000#16

/-- The canonical word of a command has every ignored bit 0 (R66); for a reserved op, log entry 15. -/
def CmdWord.canonical (w : CmdWord) : Bool :=
  decide (w.extractLsb' 0 16 &&& ignoredMask (w.extractLsb' 16 3) = 0#16)

/-- The legal range 0..88 of the step index of a state word (R7, R22, R25). Every value is accepted on ST_IN. -/
def StWord.legal (st : StWord) : Bool :=
  decide ((st.extractLsb' 0 8).toNat ≤ 88)

/-- A sample literal (R68): decimal -32768..32767, or the 16-bit pattern 0x0000..0xFFFF. The `pred` of `.state` has the
same ranges (R70). -/
def Literal.isSample : Literal → Bool
  | .dec v => decide (-32768 ≤ v ∧ v ≤ 32767)
  | .hex v => decide (v ≤ 0xFFFF)

/-- A code literal of at most `hi` (R68): 0..hi in decimal or hexadecimal. -/
def Literal.isUpTo (hi : Nat) : Literal → Bool
  | .dec v => decide (0 ≤ v ∧ v ≤ hi)
  | .hex v => decide (v ≤ hi)

/-- The operand range of each mnemonic (R68). -/
def Mnemonic.operandOk : Mnemonic → Literal → Bool
  | .alawEnc, l => l.isSample
  | .alawDec, l => l.isUpTo 255
  | .ulawEnc, l => l.isSample
  | .ulawDec, l => l.isUpTo 255
  | .adpcmEnc, l => l.isSample
  | .adpcmDec, l => l.isUpTo 15

/-- A source item whose literals are in range (R68, R70); any other is an assembly error (R68). -/
def SrcItem.wellFormed : SrcItem → Bool
  | .command m l => m.operandOk l
  | .rawWord v => decide (v < 2 ^ 19)
  | .state p i => p.isSample && i.isUpTo 255

end Sys2Proof
end

