-- ==== Sys2Proof/Decode.lean ====
section
/-! DEFINITION. The decoder of rule R64, total on every CMD word, and the encoder to canonical words (R66, R68). The decoder
refuses no word: the two reserved op values decode to the commands that name them, and it is the transaction that is
refused (R65, R151). -/

namespace Sys2Proof

/-- The `op` field, CMD bits 18:16 (R60). -/
def CmdWord.op (w : CmdWord) : OpField := w.extractLsb' 16 3

/-- The `din` field, CMD bits 15:0 (R60). -/
def CmdWord.din (w : CmdWord) : BitVec 16 := w.extractLsb' 0 16

/-- A CMD word from its two fields: `op << 16 | din` (R68). -/
def cmdWord (op : OpField) (din : BitVec 16) : CmdWord := op ++ din

/-- One row of the op-code map (R64): `w` is in the row when `w & mask = pattern`. -/
structure OpRow where
  op      : OpField
  pattern : CmdWord
  mask    : CmdWord
  deriving DecidableEq, Repr

/-- The op-code map of rule R64, in the table's order. -/
def opTable : List OpRow :=
  [ { op := 0b000#3, pattern := 0x00000#19, mask := 0x70000#19 },
    { op := 0b001#3, pattern := 0x10000#19, mask := 0x70000#19 },
    { op := 0b010#3, pattern := 0x20000#19, mask := 0x70000#19 },
    { op := 0b011#3, pattern := 0x30000#19, mask := 0x70000#19 },
    { op := 0b100#3, pattern := 0x40000#19, mask := 0x70000#19 },
    { op := 0b101#3, pattern := 0x50000#19, mask := 0x70000#19 },
    { op := 0b110#3, pattern := 0x60000#19, mask := 0x70000#19 },
    { op := 0b111#3, pattern := 0x70000#19, mask := 0x70000#19 } ]

/-- Whether a word is in a row of the op-code map (R64). -/
def OpRow.holds (r : OpRow) (w : CmdWord) : Bool := decide (w &&& r.mask = r.pattern)

/-- The command a CMD word names: the operation from `op` alone (R64), its operand from `din` (R61). The last case is
op 0b111, the one value left. -/
def decode (w : CmdWord) : Instr :=
  if w.op = 0b000#3 then .alawEnc w.din
  else if w.op = 0b001#3 then .alawDec (w.din.extractLsb' 0 8)
  else if w.op = 0b010#3 then .ulawEnc w.din
  else if w.op = 0b011#3 then .ulawDec (w.din.extractLsb' 0 8)
  else if w.op = 0b100#3 then .adpcmEnc w.din
  else if w.op = 0b101#3 then .adpcmDec (w.din.extractLsb' 0 4)
  else if w.op = 0b110#3 then .reservedOp110
  else .reservedOp111

/-- The op value of each command (R64). -/
def Instr.op : Instr → OpField
  | .alawEnc _ => 0b000#3
  | .alawDec _ => 0b001#3
  | .ulawEnc _ => 0b010#3
  | .ulawDec _ => 0b011#3
  | .adpcmEnc _ => 0b100#3
  | .adpcmDec _ => 0b101#3
  | .reservedOp110 => 0b110#3
  | .reservedOp111 => 0b111#3

/-- The `din` of a command's canonical word, every ignored bit 0 (R66, R68); for a reserved op the model's choice (log
entry 15). -/
def Instr.din : Instr → BitVec 16
  | .alawEnc x => x
  | .alawDec c => c.setWidth 16
  | .ulawEnc x => x
  | .ulawDec c => c.setWidth 16
  | .adpcmEnc x => x
  | .adpcmDec c => c.setWidth 16
  | .reservedOp110 => 0#16
  | .reservedOp111 => 0#16

/-- The canonical CMD word of a command (R66, R68). -/
def encode (i : Instr) : CmdWord := cmdWord i.op i.din

/-- The CMD word in the low `nbits` bits of `w`. A command is always 19 bits (R60): bits above 18 are no part of it
(log entry 7). -/
def tableWord (nbits w : Nat) : CmdWord := BitVec.ofNat 19 (w % 2 ^ nbits)

/-- The decoder, on an instruction whose bits are numbered as spec/opcode_table.json numbers them: CMD is one word, bit 0
its least significant (R11, R60). No word is refused (R64). -/
def decodeTableWord (nbits w : Nat) : Option Instr := some (decode (tableWord nbits w))

end Sys2Proof
end

