-- ==== Sys2Proof/Machine/Operands.lean ====
section
/-! DEFINITION. Operand and result forms shared by the three units: the fields of a state word (R60, R61), the output forms
of rule R63, the operators of R13 and R14, the magnitude of a sample under NEG_MAG (R81, R101), and the sign, segment
and mantissa fields that both G.711 laws put at the same places (R84, R105). -/

namespace Sys2Proof.Machine

/-- `pred` of a state word, bits 23:8 (R60). -/
def stPred (st : StWord) : BitVec 16 := st.extractLsb' 8 16

/-- `idx` of a state word, bits 7:0 (R60). -/
def stIdx (st : StWord) : BitVec 8 := st.extractLsb' 0 8

/-- A state word from its fields: `pred` in bits 23:8, `idx` in bits 7:0 (R60). -/
def packSt (pred : BitVec 16) (idx : BitVec 8) : StWord := pred ++ idx

/-- DOUT of the G.711 encoders: `zext_16(code8)` (R63). -/
def doutOfCode8 (c : Code8) : Dout := c.setWidth 16

/-- DOUT of ADPCM.ENC: `zext_16(code4)` (R63). -/
def doutOfCode4 (c : Code4) : Dout := c.setWidth 16

/-- DOUT of the decoders: `bits_16(sample)` (R63). -/
def doutOfSample (y : Int) : Dout := BitVec.ofInt 16 y

/-- `clamp(v, lo, hi)` (R14): saturation, never a wrap. -/
def clamp (v lo hi : Int) : Int := min (max v lo) hi

/-- `msb(v)` for v ≥ 1 (R14): the index of its most significant set bit. -/
def msbIndex (v : Nat) : Nat := Nat.log2 v

/-- The magnitude v of a negative sample under each NEG_MAG (R81 with `scale` 8, R101 with `scale` 4).
`-(scale * (x / scale))` is `scale * ceil(-x / scale)`: the division rounds down (R13). -/
def negMagnitude (m : NegMag) (scale : Nat) (x : Int) : Nat :=
  match m with
  | .onesComplement => (-x - 1).toNat
  | .absolute => (-x).toNat
  | .shiftThenNegate => (-((scale : Int) * (x / (scale : Int)))).toNat

/-- The clipped magnitude `min(v, 32767)` of a sample (R81, R101). -/
def clippedMagnitude (m : NegMag) (scale : Nat) (x : Int) : Nat :=
  min (if 0 ≤ x then x.toNat else negMagnitude m scale x) 32767

/-- The raw byte of both laws: sign at bit 7, segment at bits 6:4, mantissa at bits 3:0 (R84, R105). -/
def rawByte (sign : Bool) (seg m : Nat) : Code8 :=
  BitVec.ofNat 8 ((sign.toNat <<< 7) ||| (seg <<< 4) ||| m)

/-- The sign bit of a raw byte, bit 7 (R85, R106). -/
def rawSign (r : Code8) : Bool := r.getLsbD 7

/-- The segment of a raw byte, bits 6:4 (R85, R106). -/
def rawSegment (r : Code8) : Nat := (r.extractLsb' 4 3).toNat

/-- The mantissa of a raw byte, bits 3:0 (R85, R106). -/
def rawMantissa (r : Code8) : Nat := (r.extractLsb' 0 4).toNat

/-- A magnitude with its sign applied (R87, R108, R126). -/
def applySign (negative : Bool) (mag : Nat) : Int :=
  if negative then -(mag : Int) else (mag : Int)

end Sys2Proof.Machine
end

