-- ==== Sys2Proof/Machine/State.lean ====
section
/-! DEFINITION. The state of the machine: one ACA-CORE driven by the stream harness. The core itself holds no state between
transactions (R20, R21, R30); what a program observes is the harness state H = (k, s, out, refused) with its program P
(R31), the values the host drives on the two input ports (R22), and the implementation's parameters (R8, R9, R10). The
output ports of R23 are a function of the input ports (R24, R35) and are computed, not held: `State.outputs`. -/

namespace Sys2Proof.Machine

/-- One item of a harness program (R31): a CMD word, or the directive `.state p, i` (R70), which has no CMD encoding. -/
inductive Item where
  | cmd (word : CmdWord)
  | state (pred : BitVec 16) (idx : BitVec 8)
  deriving DecidableEq, Repr

/-- Why a transaction is refused (R151): the refusal records the op value and nothing else. -/
inductive RefusedReason where
  | reservedOp (op : OpField)
  deriving DecidableEq, Repr

/-- What a transaction drives on OUTCOME, DOUT and ST_OUT (R23, R24). A refused transaction has no DOUT and no ST_OUT
(R151), so this constructor has no place for either. -/
inductive PortOutcome where
  | ok (dout : Dout) (stOut : StWord)
  | refused (reason : RefusedReason)
  deriving DecidableEq, Repr

/-- Why the harness has no step (R33). No instruction raises one: the core has no exception (R150, R154). -/
inductive Fault where
  /-- Raised by `step` when no item stands at `k`: the run has ended (R33, R34). Safe: nothing follows. -/
  | runEnded
  /-- Raised by `step` when `refused = true`: the run has ended refused (R33, R34). Safe: nothing follows. -/
  | runRefused
  deriving DecidableEq, Repr

/-- Why a step has no meaning. No instruction of this model is without one. -/
inductive Refusal where
  /-- Raised by an arm of `exec` whose instruction has no meaning yet; no arm is left so. Safe. -/
  | notModelled (mnemonic : String)
  deriving DecidableEq, Repr

/-- The machine's state.
* `params`: NEG_MAG, IDX_OOR and N_INST, hard-wired (R8, R9, R10, R172).
* `cmd`, `stIn`: the input ports, as the host last drove them (R22).
* `prog`, `k`, `st`, `out`, `refused`: the harness program P and H = (k, s, out, refused) (R31). -/
structure State where
  params  : Config
  cmd     : CmdWord
  stIn    : StWord
  prog    : List Item
  k       : Nat
  st      : StWord
  out     : List Dout
  refused : Bool
  deriving DecidableEq, Repr

/-- The harness start state of rule R32 for a program P and a stream state s: `k = 0`, `out = []`, `refused = false`.
DESIGN CHOICE: the input ports, which have no reset value (R35), are given 0 (log entry 5). -/
def State.start (params : Config) (prog : List Item) (st : StWord) : State :=
  { params := params, cmd := 0#19, stIn := 0#24, prog := prog, k := 0, st := st, out := [], refused := false }

/-- The machine right after reset: the start state of R32 with the default stream state `0x000000` (R27) and the default
parameters (R8, R9).
DESIGN CHOICE: no program has been given to the harness yet (log entry 6). -/
def State.reset : State := State.start Config.default [] 0x000000#24

end Sys2Proof.Machine
end

