-- ==== Sys2Proof/Machine/Ops.lean ====
section
/-! DEFINITION. The named operations of the stream harness (R31 to R34): fetching an item, driving the input ports, taking a
completed transaction's outputs, and taking a refusal, which is the one outcome other than a result (R151, R152). There
is no trap, nothing is saved and there is no return from one (R154), so the refusal is the whole of this file's
exception handling. -/

namespace Sys2Proof.Machine

/-- The item `P[k]`, if there is one (R33). -/
def fetchItem (s : State) : Option Item := s.prog[s.k]?

/-- The host drives a transaction's inputs (R22, R33): CMD with the program's word, ST_IN with the stream state it threads. -/
def present (c : CmdWord) (s : State) : State :=
  { s with cmd := c, stIn := s.st }

/-- A completed transaction (R33): `out <- out ++ [d]; s <- s2; k <- k + 1`. -/
def complete (dout : Dout) (stOut : StWord) (s : State) : State :=
  { s with out := s.out ++ [dout], st := stOut, k := s.k + 1 }

/-- A refused transaction (R33, R151): `refused <- true`, and nothing else; `k` is not advanced. -/
def refuse (s : State) : State :=
  { s with refused := true }

/-- The harness takes a transaction's outcome (R33). -/
def settle (o : PortOutcome) (s : State) : Host.Outcome State Fault Refusal :=
  match o with
  | .ok dout stOut => .next (complete dout stOut s)
  | .refused _ => .next (refuse s)

/-- The directive `.state p, i` (R33, R70): `s <- bits_16(p) : bits_8(i); k <- k + 1`. -/
def setStream (pred : BitVec 16) (idx : BitVec 8) (s : State) : State :=
  { s with st := packSt pred idx, k := s.k + 1 }

/-- A program with `item` at place `k`; a program too short for that is filled up with the word 0x00000 below it. -/
def placeItem (prog : List Item) (k : Nat) (item : Item) : List Item :=
  prog.take k ++ List.replicate (k - prog.length) (.cmd 0#19) ++ item :: prog.drop (k + 1)

end Sys2Proof.Machine
end

