-- ==== Sys2Proof/Machine/Rom.lean ====
section
/-! DEFINITION. The two constant tables of the ADPCM unit (R41, R42) and the one primitive that reads them (R15, R43). They
are constants: no operation writes them, and every core holds the same contents (R30, R43). -/

namespace Sys2Proof.Machine

/-- STEP, entries 0 to 29 (R41), ten to a row. -/
def stepTable0 : List Nat :=
  [7, 8, 9, 10, 11, 12, 13, 14, 16, 17] ++
  [19, 21, 23, 25, 28, 31, 34, 37, 41, 45] ++
  [50, 55, 60, 66, 73, 80, 88, 97, 107, 118]

/-- STEP, entries 30 to 59 (R41). -/
def stepTable30 : List Nat :=
  [130, 143, 157, 173, 190, 209, 230, 253, 279, 307] ++
  [337, 371, 408, 449, 494, 544, 598, 658, 724, 796] ++
  [876, 963, 1060, 1166, 1282, 1411, 1552, 1707, 1878, 2066]

/-- STEP, entries 60 to 88 (R41). -/
def stepTable60 : List Nat :=
  [2272, 2499, 2749, 3024, 3327, 3660, 4026, 4428, 4871, 5358] ++
  [5894, 6484, 7132, 7845, 8630, 9493, 10442, 11487, 12635, 13899] ++
  [15289, 16818, 18500, 20350, 22385, 24623, 27086, 29794, 32767]

/-- STEP (R41): 89 entries, indexed 0..88. UNVERIFIED: the 87 interior values are the spec's own, marked there as general
knowledge (log entry 9). -/
def stepTable : List Nat := stepTable0 ++ stepTable30 ++ stepTable60

theorem stepTable_length : stepTable.length = 89 := by decide

/-- ADJ (R42): 8 entries, one per magnitude code delta. -/
def adjTable : List Int := [-1, -1, -1, -1, 2, 4, 6, 8]

theorem adjTable_length : adjTable.length = 8 := by decide

/-- `RomRead(STEP, i)` (R43). The index type holds 0..88 only, so no read is out of bounds. -/
def romStep (i : Fin 89) : Nat :=
  stepTable[i.val]'(by rw [stepTable_length]; exact i.isLt)

/-- `RomRead(ADJ, d)` (R43), d the 3-bit magnitude code delta. -/
def romAdj (d : BitVec 3) : Int :=
  adjTable[d.toNat]'(by rw [adjTable_length]; exact d.isLt)

end Sys2Proof.Machine
end

