-- ==== Sys2Proof/Machine/Adpcm.lean ====
section
/-! DEFINITION. The IMA ADPCM unit: the stages of rules R120 to R129 and the operations ADPCM.ENC (R130) and ADPCM.DEC
(R131). All arithmetic is on mathematical integers with saturating clamps (R12). Both operations share every stage
after the quantizer, `adpcmUpdate`. -/

namespace Sys2Proof.Machine

/-- The lookup index i, always 0..88 (R121). -/
def adpcmLookupIndex (iu : Nat) : Fin 89 := ⟨min iu 88, by omega⟩

/-- The update base (R121): the parameter IDX_OOR says whether the clamped or the raw index enters the sum. -/
def adpcmBase (m : IdxOor) (iu : Nat) : Nat :=
  match m with
  | .clampFirst => min iu 88
  | .rawSum => iu

/-- The step lookup (R122), on the raw index of ST_IN. -/
def adpcmStep (iu : Nat) : Nat := romStep (adpcmLookupIndex iu)

/-- The quantizer (R124): three comparisons, against step, step >> 1 and step >> 2, each threshold subtracted when it is
reached (conflict C7: step >> 3 is no threshold). -/
def adpcmQuantize (mag step : Nat) : BitVec 3 :=
  let b2 := decide (step ≤ mag)
  let r2 := if b2 then mag - step else mag
  let b1 := decide (step >>> 1 ≤ r2)
  let r1 := if b1 then r2 - (step >>> 1) else r2
  let b0 := decide (step >>> 2 ≤ r1)
  (if b2 then 4#3 else 0#3) ||| (if b1 then 2#3 else 0#3) ||| (if b0 then 1#3 else 0#3)

/-- The reconstruction diffq (R125): bit 2 weighs step, bit 1 step >> 1, bit 0 step >> 2 (conflict C6). -/
def adpcmRecon (step : Nat) (delta : BitVec 3) : Nat :=
  (step >>> 3) + (if delta.getLsbD 2 then step else 0) + (if delta.getLsbD 1 then step >>> 1 else 0)
    + (if delta.getLsbD 0 then step >>> 2 else 0)

/-- The saturating predictor update (R126). -/
def adpcmPredict (pred : Int) (neg : Bool) (diffq : Nat) : Int :=
  clamp (pred + applySign neg diffq) (-32768) 32767

/-- The clamped step-index update (R127): ADJ is indexed by the 3-bit delta, not by the code. -/
def adpcmNextIndex (base : Nat) (delta : BitVec 3) : Nat :=
  (clamp ((base : Int) + romAdj delta) 0 88).toNat

/-- ST_OUT from ST_IN, the sign flag and delta: the stages R121, R122, R125, R126 and R127 that both operations share. -/
def adpcmUpdate (m : IdxOor) (st : StWord) (neg : Bool) (delta : BitVec 3) : StWord :=
  let iu := (stIdx st).toNat
  let p := adpcmPredict (stPred st).toInt neg (adpcmRecon (adpcmStep iu) delta)
  packSt (BitVec.ofInt 16 p) (BitVec.ofNat 8 (adpcmNextIndex (adpcmBase m iu) delta))

/-- The difference of a sample and the predictor, exact (R123). -/
def adpcmDiff (sample : Sample) (st : StWord) : Int := sample.toInt - (stPred st).toInt

/-- The sign flag of the encoder (R123). -/
def adpcmNeg (sample : Sample) (st : StWord) : Bool := decide (adpcmDiff sample st < 0)

/-- The encoder's delta (R123, R124). -/
def adpcmDelta (sample : Sample) (st : StWord) : BitVec 3 :=
  adpcmQuantize (adpcmDiff sample st).natAbs (adpcmStep (stIdx st).toNat)

/-- Code assembly: `(neg << 3) | delta` (R128). -/
def adpcmCode (neg : Bool) (delta : BitVec 3) : Code4 := BitVec.ofBool neg ++ delta

/-- The sign flag of a code, bit 3 (R129). -/
def adpcmCodeNeg (c : Code4) : Bool := c.getLsbD 3

/-- The delta of a code, bits 2:0 (R129). -/
def adpcmCodeDelta (c : Code4) : BitVec 3 := c.extractLsb' 0 3

/-- The transaction ADPCM.ENC (R130). -/
def adpcmEncTransaction (p : Config) (sample : Sample) (stIn : StWord) : PortOutcome :=
  let neg := adpcmNeg sample stIn
  let delta := adpcmDelta sample stIn
  .ok (doutOfCode4 (adpcmCode neg delta)) (adpcmUpdate p.idxOor stIn neg delta)

/-- The transaction ADPCM.DEC (R131): the decoded sample is the new predictor. -/
def adpcmDecTransaction (p : Config) (code : Code4) (stIn : StWord) : PortOutcome :=
  let stOut := adpcmUpdate p.idxOor stIn (adpcmCodeNeg code) (adpcmCodeDelta code)
  .ok (stPred stOut) stOut

/-- ADPCM.ENC (R130), as the harness runs it (R33). -/
def execAdpcmEnc (sample : Sample) (s : State) : Host.Outcome State Fault Refusal :=
  settle (adpcmEncTransaction s.params sample s.st) s

/-- ADPCM.DEC (R131), as the harness runs it (R33). -/
def execAdpcmDec (code : Code4) (s : State) : Host.Outcome State Fault Refusal :=
  settle (adpcmDecTransaction s.params code s.st) s

end Sys2Proof.Machine
end

