-- ==== Sys2Proof/Machine/Alaw.lean ====
section
/-! DEFINITION. The A-law unit: the stages of rules R81 to R87 and the operations ALAW.ENC (R88) and ALAW.DEC (R89). -/

namespace Sys2Proof.Machine

/-- The magnitude index M of a sample, 0..2047 (R81). -/
def alawMagnitude (m : NegMag) (x : Int) : Nat := clippedMagnitude m 8 x >>> 4

/-- The segment detector (R82). -/
def alawSegment (M : Nat) : Nat := if M < 16 then 0 else msbIndex M - 3

/-- The mantissa extractor (R83). -/
def alawMantissa (M seg : Nat) : Nat :=
  if seg = 0 then M &&& 0xF else (M >>> (seg - 1)) &&& 0xF

/-- The packer with the even-bit inversion (R84); `s` is 1 for x ≥ 0. -/
def alawPack (s : Bool) (seg m : Nat) : Code8 := rawByte s seg m ^^^ 0x55#8

/-- The A-law code of a sample (R88). -/
def alawEncode (neg : NegMag) (sample : Sample) : Code8 :=
  let x := sample.toInt
  let M := alawMagnitude neg x
  let seg := alawSegment M
  alawPack (decide (0 ≤ x)) seg (alawMantissa M seg)

/-- The inverse expander (R86). -/
def alawExpand (seg m : Nat) : Nat :=
  if seg = 0 then (m <<< 4) + 8 else ((m <<< 4) + 264) <<< (seg - 1)

/-- The sample of an A-law code (R85, R87, R89). -/
def alawDecode (c : Code8) : Int :=
  let r := c ^^^ 0x55#8
  applySign (!rawSign r) (alawExpand (rawSegment r) (rawMantissa r))

/-- The transaction ALAW.ENC (R88): the ADPCM state passes through (R28). -/
def alawEncTransaction (p : Config) (sample : Sample) (stIn : StWord) : PortOutcome :=
  .ok (doutOfCode8 (alawEncode p.negMag sample)) stIn

/-- The transaction ALAW.DEC (R89): the ADPCM state passes through (R28). -/
def alawDecTransaction (code : Code8) (stIn : StWord) : PortOutcome :=
  .ok (doutOfSample (alawDecode code)) stIn

/-- ALAW.ENC (R88), as the harness runs it (R33). -/
def execAlawEnc (sample : Sample) (s : State) : Host.Outcome State Fault Refusal :=
  settle (alawEncTransaction s.params sample s.st) s

/-- ALAW.DEC (R89), as the harness runs it (R33). -/
def execAlawDec (code : Code8) (s : State) : Host.Outcome State Fault Refusal :=
  settle (alawDecTransaction code s.st) s

end Sys2Proof.Machine
end

