-- ==== Sys2Proof/Machine/Reserved.lean ====
section
/-! DEFINITION. The two reserved op values (R65, R151). The transaction is refused, with the op value as its reason, and the
harness that meets it takes `refused <- true` (R33). Log entry 3. -/

namespace Sys2Proof.Machine

/-- The transaction of a reserved op (R151): no DOUT and no ST_OUT. -/
def reservedTransaction (op : OpField) : PortOutcome := .refused (.reservedOp op)

/-- A command with op 0b110 (R151), as the harness meets it (R33). -/
def execReservedOp110 (s : State) : Host.Outcome State Fault Refusal :=
  settle (reservedTransaction 0b110#3) s

/-- A command with op 0b111 (R151), as the harness meets it (R33). -/
def execReservedOp111 (s : State) : Host.Outcome State Fault Refusal :=
  settle (reservedTransaction 0b111#3) s

end Sys2Proof.Machine
end

