-- ==== Sys2Proof/Machine/Ulaw.lean ====
section
/-! DEFINITION. The mu-law unit: the stages of rules R101 to R108 and the operations ULAW.ENC (R109) and ULAW.DEC (R110). -/

namespace Sys2Proof.Machine

/-- The 14-bit magnitude m14 of a sample, 0..8191 (R101). -/
def ulawMagnitude (m : NegMag) (x : Int) : Nat := clippedMagnitude m 4 x >>> 2

/-- The biased and clipped magnitude B, 33..8191 (R102). -/
def ulawBias (m14 : Nat) : Nat := min (m14 + 33) 8191

/-- The segment detector (R103). -/
def ulawSegment (B : Nat) : Nat := msbIndex B - 5

/-- The mantissa extractor (R104). -/
def ulawMantissa (B seg : Nat) : Nat := (B >>> (seg + 1)) &&& 0xF

/-- The packer with the one's complement (R105): every bit inverted once; `n` is 1 for x < 0. -/
def ulawPack (n : Bool) (seg m : Nat) : Code8 := rawByte n seg m ^^^ 0xFF#8

/-- The mu-law code of a sample (R109). -/
def ulawEncode (neg : NegMag) (sample : Sample) : Code8 :=
  let x := sample.toInt
  let B := ulawBias (ulawMagnitude neg x)
  let seg := ulawSegment B
  ulawPack (decide (x < 0)) seg (ulawMantissa B seg)

/-- The inverse expander (R107): the shift binds before the subtraction (conflict C2). -/
def ulawExpand (seg m : Nat) : Nat := (((m <<< 3) + 132) <<< seg) - 132

/-- The sample of a mu-law code (R106, R108, R110). -/
def ulawDecode (c : Code8) : Int :=
  let r := c ^^^ 0xFF#8
  applySign (rawSign r) (ulawExpand (rawSegment r) (rawMantissa r))

/-- The transaction ULAW.ENC (R109): the ADPCM state passes through (R28). -/
def ulawEncTransaction (p : Config) (sample : Sample) (stIn : StWord) : PortOutcome :=
  .ok (doutOfCode8 (ulawEncode p.negMag sample)) stIn

/-- The transaction ULAW.DEC (R110): the ADPCM state passes through (R28). -/
def ulawDecTransaction (code : Code8) (stIn : StWord) : PortOutcome :=
  .ok (doutOfSample (ulawDecode code)) stIn

/-- ULAW.ENC (R109), as the harness runs it (R33). -/
def execUlawEnc (sample : Sample) (s : State) : Host.Outcome State Fault Refusal :=
  settle (ulawEncTransaction s.params sample s.st) s

/-- ULAW.DEC (R110), as the harness runs it (R33). -/
def execUlawDec (code : Code8) (s : State) : Host.Outcome State Fault Refusal :=
  settle (ulawDecTransaction code s.st) s

end Sys2Proof.Machine
end

