-- ==== Sys2Proof/Machine/Dispatch.lean ====
section
/-! DEFINITION. One arm per command: the meaning of each as the stream harness runs it (R33, R64). -/

namespace Sys2Proof.Machine

def exec (i : Instr) (s : State) : Host.Outcome State Fault Refusal :=
  match i with
  | .alawEnc x => Sys2Proof.Machine.execAlawEnc x s
  | .alawDec c => Sys2Proof.Machine.execAlawDec c s
  | .ulawEnc x => Sys2Proof.Machine.execUlawEnc x s
  | .ulawDec c => Sys2Proof.Machine.execUlawDec c s
  | .adpcmEnc x => Sys2Proof.Machine.execAdpcmEnc x s
  | .adpcmDec c => Sys2Proof.Machine.execAdpcmDec c s
  | .reservedOp110 => Sys2Proof.Machine.execReservedOp110 s
  | .reservedOp111 => Sys2Proof.Machine.execReservedOp111 s

end Sys2Proof.Machine
end

