-- ==== Sys2Proof/Machine/Step.lean ====
section
/-! DEFINITION. One step of the machine: one step of the stream harness (R33), each command one atomic transaction of the
core (R24). -/

namespace Sys2Proof.Machine

/-- The harness step (R33). There is no step when `refused = true` or no item is left; the model says so by a fault
(log entry 4). Otherwise a directive sets the stream state, and a command word is driven on the ports and run. -/
def step (s : State) : Host.Outcome State Fault Refusal :=
  if s.refused then .fault .runRefused
  else
    match fetchItem s with
    | none => .fault .runEnded
    | some (.state p i) => .next (setStream p i s)
    | some (.cmd c) => exec (decode c) (present c s)

/-- `s` with the CMD word of `w` placed where the next step fetches it, and with the run not refused, so that the next
step runs it: the host giving the harness a program (R31, log entry 6). -/
def State.withFetchWord (s : State) (nbits w : Nat) : State :=
  { s with prog := placeItem s.prog s.k (.cmd (tableWord nbits w)), refused := false }

end Sys2Proof.Machine
end

