-- ==== Sys2Proof/Machine/Assembler.lean ====
section
/-! DEFINITION. The assembler of rules R67, R68, R70 and R71: source text to the items of a harness program (R31). Text is a
list of characters. What the spec leaves open about the text (blanks, line numbers, what is reported) is log entry 10. -/

namespace Sys2Proof.Machine

/-- Why the assembler refuses a line (R68, U10). -/
inductive AsmError where
  /-- The line is none of the forms of R68 and R70. -/
  | notAnItem
  /-- A literal is not of the form of R67. -/
  | badLiteral
  /-- A literal is outside its range (R68, R70). -/
  | outOfRange
  deriving DecidableEq, Repr

/-- A blank inside a line: a space, a tab or a carriage return. -/
def isBlank (c : Char) : Bool := c == ' ' || c == '\t' || c == '\r'

/-- The value of a decimal digit. -/
def decDigit (c : Char) : Option Nat :=
  if 48 ≤ c.toNat ∧ c.toNat ≤ 57 then some (c.toNat - 48) else none

/-- The value of a hexadecimal digit, of either case. -/
def hexDigit (c : Char) : Option Nat :=
  if 48 ≤ c.toNat ∧ c.toNat ≤ 57 then some (c.toNat - 48)
  else if 65 ≤ c.toNat ∧ c.toNat ≤ 70 then some (c.toNat - 55)
  else if 97 ≤ c.toNat ∧ c.toNat ≤ 102 then some (c.toNat - 87)
  else none

/-- The digits read after the value `acc` in a base; none if a character is no digit. -/
def readDigits (base : Nat) (digit : Char → Option Nat) : Nat → List Char → Option Nat
  | acc, [] => some acc
  | acc, c :: cs =>
    match digit c with
    | none => none
    | some d => readDigits base digit (acc * base + d) cs

/-- At least one digit. -/
def readNumber (base : Nat) (digit : Char → Option Nat) : List Char → Option Nat
  | [] => none
  | c :: cs => readDigits base digit 0 (c :: cs)

/-- A numeric literal (R67): decimal with an optional leading `-`, or `0x` and hexadecimal digits. -/
def readLiteral : List Char → Option Literal
  | '0' :: 'x' :: cs => (readNumber 16 hexDigit cs).map .hex
  | '-' :: cs => (readNumber 10 decDigit cs).map fun n => .dec (-(n : Int))
  | cs => (readNumber 10 decDigit cs).map fun n => .dec (n : Int)

/-- The mnemonics of R68, in lower case. -/
def mnemonicText : Mnemonic → List Char
  | .alawEnc => ['a', 'l', 'a', 'w', '.', 'e', 'n', 'c']
  | .alawDec => ['a', 'l', 'a', 'w', '.', 'd', 'e', 'c']
  | .ulawEnc => ['u', 'l', 'a', 'w', '.', 'e', 'n', 'c']
  | .ulawDec => ['u', 'l', 'a', 'w', '.', 'd', 'e', 'c']
  | .adpcmEnc => ['a', 'd', 'p', 'c', 'm', '.', 'e', 'n', 'c']
  | .adpcmDec => ['a', 'd', 'p', 'c', 'm', '.', 'd', 'e', 'c']

/-- The six mnemonics. -/
def allMnemonics : List Mnemonic := [.alawEnc, .alawDec, .ulawEnc, .ulawDec, .adpcmEnc, .adpcmDec]

/-- The mnemonic a word spells, in any case (R67). -/
def readMnemonic (w : List Char) : Option Mnemonic :=
  allMnemonics.find? fun m => decide (w.map Char.toLower = mnemonicText m)

/-- The directive `.word` (R68). -/
def wordText : List Char := ['.', 'w', 'o', 'r', 'd']

/-- The directive `.state` (R70). -/
def stateText : List Char := ['.', 's', 't', 'a', 't', 'e']

/-- The text of a line before its comment (R67). -/
def dropComment (line : List Char) : List Char := line.takeWhile fun c => c != ';'

/-- The words of a line in order: blanks part words, and a comma is a word of its own. -/
def splitWords : List Char → List Char → List (List Char)
  | acc, [] => if acc.isEmpty then [] else [acc]
  | acc, c :: cs =>
    if isBlank c then (if acc.isEmpty then [] else [acc]) ++ splitWords [] cs
    else if c == ',' then (if acc.isEmpty then [] else [acc]) ++ [','] :: splitWords [] cs
    else splitWords (acc ++ [c]) cs

/-- The words of a line of source (R67). -/
def lineWords (line : List Char) : List (List Char) := splitWords [] (dropComment line)

/-- A line of the form `<word> <literal>` (R68). -/
def readOneOperand (w operand : List Char) : Except AsmError SrcItem :=
  match readMnemonic w, readLiteral operand with
  | some m, some l => .ok (.command m l)
  | some _, none => .error .badLiteral
  | none, some (.hex v) => if w = wordText then .ok (.rawWord v) else .error .notAnItem
  | none, _ => if w = wordText then .error .badLiteral else .error .notAnItem

/-- What a line says (R67, R68, R70); nothing, for a blank line. -/
def readLine (line : List Char) : Except AsmError (Option SrcItem) :=
  match lineWords line with
  | [] => .ok none
  | [w, operand] => (readOneOperand w operand).map some
  | [w, p, comma, i] =>
    if w = stateText ∧ comma = [','] then
      match readLiteral p, readLiteral i with
      | some lp, some li => .ok (some (.state lp li))
      | _, _ => .error .badLiteral
    else .error .notAnItem
  | _ => .error .notAnItem

/-- `bits_16` of a sample literal (R68): a hexadecimal literal is the pattern itself. -/
def Literal.bits16 : Literal → BitVec 16
  | .dec v => BitVec.ofInt 16 v
  | .hex v => BitVec.ofNat 16 v

/-- The value of a code or index literal that is in its range (R68, R70). -/
def Literal.value : Literal → Nat
  | .dec v => v.toNat
  | .hex v => v

/-- The command a mnemonic and its operand stand for (R68, R71). -/
def Mnemonic.instr (m : Mnemonic) (l : Literal) : Instr :=
  match m with
  | .alawEnc => .alawEnc (Literal.bits16 l)
  | .alawDec => .alawDec (BitVec.ofNat 8 (Literal.value l))
  | .ulawEnc => .ulawEnc (Literal.bits16 l)
  | .ulawDec => .ulawDec (BitVec.ofNat 8 (Literal.value l))
  | .adpcmEnc => .adpcmEnc (Literal.bits16 l)
  | .adpcmDec => .adpcmDec (BitVec.ofNat 4 (Literal.value l))

/-- The program item of a source item (R68, R70): a command's canonical word, a raw word as it stands, or the directive.
A literal outside its range is an error, and no word is written. -/
def assembleItem (t : SrcItem) : Except AsmError Item :=
  if t.wellFormed then
    match t with
    | .command m l => .ok (.cmd (encode (Mnemonic.instr m l)))
    | .rawWord v => .ok (.cmd (BitVec.ofNat 19 v))
    | .state p i => .ok (.state (Literal.bits16 p) (BitVec.ofNat 8 (Literal.value i)))
  else .error .outOfRange

/-- One line of source: no item, one item, or the reason the line is refused. -/
def assembleLine (line : List Char) : Except AsmError (List Item) :=
  match readLine line with
  | .error e => .error e
  | .ok none => .ok []
  | .ok (some t) => (assembleItem t).map fun i => [i]

/-- The lines of a text, parted by line feeds; `acc` holds the line being read. -/
def splitLines : List Char → List Char → List (List Char)
  | acc, [] => [acc]
  | acc, c :: cs => if c == '\n' then acc :: splitLines [] cs else splitLines (acc ++ [c]) cs

/-- The lines from number `n` on; a refused line is reported by its number (R68). -/
def assembleLines : Nat → List (List Char) → Except (Nat × AsmError) (List Item)
  | _, [] => .ok []
  | n, l :: ls =>
    match assembleLine l with
    | .error e => .error (n, e)
    | .ok items => (assembleLines (n + 1) ls).map fun rest => items ++ rest

/-- The assembler (R67, R68, R70): a text to a harness program, its lines numbered from 1. -/
def assemble (text : List Char) : Except (Nat × AsmError) (List Item) :=
  assembleLines 1 (splitLines [] text)

end Sys2Proof.Machine
end

