-- ==== Sys2Proof/Machine/Disassembler.lean ====
section
/-! DEFINITION. The disassembler of rule R69: a CMD word to a line of text. The case of letters and the blanks, which the
spec leaves open, are log entry 11. -/

namespace Sys2Proof.Machine

/-- The character of a digit 0..15, letters in upper case. -/
def digitChar (d : Nat) : Char := Char.ofNat (if d < 10 then 48 + d else 55 + d)

/-- `n` in hexadecimal with `width` digits. -/
def hexText : Nat → Nat → List Char
  | 0, _ => []
  | width + 1, n => hexText width (n / 16) ++ [digitChar (n % 16)]

/-- `n` in decimal with at most `fuel` digits. -/
def decTextFuel : Nat → Nat → List Char
  | 0, _ => []
  | fuel + 1, n =>
    if n < 10 then [digitChar n] else decTextFuel fuel (n / 10) ++ [digitChar (n % 10)]

/-- An integer of at most five decimal digits, which every printed operand is (R69). -/
def decText (v : Int) : List Char :=
  if v < 0 then '-' :: decTextFuel 5 v.natAbs else decTextFuel 5 v.natAbs

/-- The mnemonic of an op value as rule R64 spells it. -/
def upperMnemonic (m : Mnemonic) : List Char := (mnemonicText m).map Char.toUpper

/-- `0x`. -/
def hexMark : List Char := ['0', 'x']

/-- The operand part of a line: a decimal sample, a two-digit hexadecimal code, or a decimal code (R69). -/
def commandText : Instr → List Char
  | .alawEnc x => upperMnemonic .alawEnc ++ ' ' :: decText x.toInt
  | .alawDec c => upperMnemonic .alawDec ++ ' ' :: (hexMark ++ hexText 2 c.toNat)
  | .ulawEnc x => upperMnemonic .ulawEnc ++ ' ' :: decText x.toInt
  | .ulawDec c => upperMnemonic .ulawDec ++ ' ' :: (hexMark ++ hexText 2 c.toNat)
  | .adpcmEnc x => upperMnemonic .adpcmEnc ++ ' ' :: decText x.toInt
  | .adpcmDec c => upperMnemonic .adpcmDec ++ ' ' :: decText c.toNat
  | .reservedOp110 => []
  | .reservedOp111 => []

/-- The comment of a word with nonzero ignored bits: `; ignored bits 0x....`, holding `w[15:0]` (R69). -/
def ignoredComment (w : CmdWord) : List Char :=
  [' ', ';', ' ', 'i', 'g', 'n', 'o', 'r', 'e', 'd', ' ', 'b', 'i', 't', 's', ' '] ++ hexMark ++ hexText 4 w.din.toNat

/-- Disassembly of a CMD word (R69): a reserved op prints as the raw word. -/
def disassemble (w : CmdWord) : List Char :=
  if w.op = 0b110#3 ∨ w.op = 0b111#3 then wordText ++ ' ' :: (hexMark ++ hexText 5 w.toNat)
  else commandText (decode w) ++ (if w.canonical then [] else ignoredComment w)

end Sys2Proof.Machine
end

