-- ==== Sys2Proof/Machine/Transact.lean ====
section
/-! DEFINITION. The core as a function of its ports (R24): `Core(CMD, ST_IN) -> OK(DOUT, ST_OUT) | REFUSED(reason)`, and the
output ports of a state (R23, R35). -/

namespace Sys2Proof.Machine

/-- What a decoded command drives on the output ports, given ST_IN (R24). -/
def transact (p : Config) (i : Instr) (stIn : StWord) : PortOutcome :=
  match i with
  | .alawEnc x => alawEncTransaction p x stIn
  | .alawDec c => alawDecTransaction c stIn
  | .ulawEnc x => ulawEncTransaction p x stIn
  | .ulawDec c => ulawDecTransaction c stIn
  | .adpcmEnc x => adpcmEncTransaction p x stIn
  | .adpcmDec c => adpcmDecTransaction p c stIn
  | .reservedOp110 => reservedTransaction 0b110#3
  | .reservedOp111 => reservedTransaction 0b111#3

/-- `Core(CMD, ST_IN)` (R24): a function of the transaction's inputs and the hard-wired parameters alone (R20). -/
def coreTransaction (p : Config) (cmd : CmdWord) (stIn : StWord) : PortOutcome :=
  transact p (decode cmd) stIn

/-- The output ports OUTCOME, DOUT and ST_OUT: a function of the current inputs only, with no value of their own (R35). -/
def State.outputs (s : State) : PortOutcome := coreTransaction s.params s.cmd s.stIn

end Sys2Proof.Machine
end

