-- ==== Sys2Proof/Machine/Stream.lean ====
section
/-! DEFINITION. A stream (R29, R49): a sequence of transactions that threads one ADPCM state, each one's ST_IN the ST_OUT of
the one before (R26, R173). -/

namespace Sys2Proof.Machine

/-- The results (DOUT, ST_OUT) of a stream's transactions, in order, from the state `st`; a refused transaction has none,
and the stream ends there (R34). -/
def threadStream (p : Config) : StWord → List Instr → List (Dout × StWord)
  | _, [] => []
  | st, i :: rest =>
    match transact p i st with
    | .ok dout stOut => (dout, stOut) :: threadStream p stOut rest
    | .refused _ => []

/-- The state a stream is left in: the last ST_OUT, or the start state if there was none (R26). -/
def streamState (st : StWord) (results : List (Dout × StWord)) : StWord :=
  ((results.map Prod.snd).getLast?).getD st

/-- An encoding stream's transactions, one for each sample (R5, R29). -/
def encodingStream (samples : List Sample) : List Instr := samples.map .adpcmEnc

/-- A decoding stream's transactions for the codes an encoding stream gave on DOUT (R29, R174). -/
def decodingStream (results : List (Dout × StWord)) : List Instr :=
  results.map fun r => .adpcmDec (r.1.setWidth 4)

/-- The harness program that issues a list of commands, each as its canonical word (R31, R66). -/
def commandProgram (is : List Instr) : List Item := is.map fun i => .cmd (encode i)

end Sys2Proof.Machine
end

