-- ==== Sys2Proof/Machine/System.lean ====
section
/-! DEFINITION. A system of `N_INST` cores and the streams that hosts run on them (R10, R29, R156). A core holds no state (R20),
so all there is of it is its hard-wired parameters; a stream is a harness with the ADPCM state it threads. Any stream may
run on any core, and any number of streams on one core. Log entry 12. -/

namespace Sys2Proof.Machine

/-- The cores of a system, `N_INST` of them, and the streams. -/
structure System where
  cores   : List Config
  streams : List State
  deriving DecidableEq, Repr

/-- A positive number of cores, N_INST (R10), all of one implementation (R172, R177), which is that of every stream. -/
def System.wellFormed (y : System) : Bool :=
  match y.cores with
  | [] => false
  | p :: rest =>
    decide (p.nInst = rest.length + 1) && rest.all (fun q => decide (q = p)) &&
      y.streams.all fun s => decide (s.params = p)

/-- A system right after reset: `n` cores with the default parameters, and `m` streams with their harnesses at reset
(R35, R170). No core needs a start-up sequence (R156). -/
def System.reset (n m : Nat) : System :=
  { cores := List.replicate n { Config.default with nInst := n },
    streams := List.replicate m { State.reset with params := { Config.default with nInst := n } } }

/-- A harness driving a core whose parameters are `p`. -/
def State.onCore (p : Config) (s : State) : State := { s with params := p }

/-- Stream `j` takes one step of its harness on core `c`; the cores and the other streams stay as they are. There is no
such step if `c` names no core or `j` no stream. -/
def System.stepStream (y : System) (c j : Nat) : Option (Host.Outcome System Fault Refusal) :=
  match y.cores[c]?, y.streams[j]? with
  | some p, some s =>
    match step (s.onCore p) with
    | .next t => some (.next { y with streams := y.streams.set j t })
    | .fault f => some (.fault f)
    | .refused r => some (.refused r)
  | _, _ => none

end Sys2Proof.Machine
end

