-- ==== Sys2Proof/Safety.lean ====
section
/-! DEFINITION. The terms in which claims are made: how a run ends and what it observes (R34), the invariants of the harness
and of the stream state, the decision thresholds and reconstruction values of the two G.711 laws (R92, R113), the
quantizer thresholds of R124, and the reference encoder of R135. -/

namespace Sys2Proof.Machine

/-- A reserved op value (R65). -/
def reservedOp (op : OpField) : Bool := decide (op = 0b110#3 ∨ op = 0b111#3)

/-- The run has ended normally: `k = length(P)` and `refused = false` (R34). -/
def State.endedNormally (s : State) : Bool := decide (s.k = s.prog.length) && !s.refused

/-- What a run that ended normally shows: the final (s, out). A run that ended refused has no normal observation (R34). -/
def State.observation (s : State) : Option (StWord × List Dout) :=
  if s.endedNormally then some (s.st, s.out) else none

/-- How many items of a list are commands. -/
def commandCount : List Item → Nat
  | [] => 0
  | .cmd _ :: rest => commandCount rest + 1
  | .state _ _ :: rest => commandCount rest

/-- The harness invariant: `k` is within P; `out` holds one DOUT for each command before `k` (R33); and a refused run
stands at a reserved command, which is what CMD still carries (R33, R151; log entries 3 and 5). -/
def State.HarnessInv (s : State) : Prop :=
  s.k ≤ s.prog.length ∧
  s.out.length = commandCount (s.prog.take s.k) ∧
  (s.refused = true → ∃ c : CmdWord, s.prog[s.k]? = some (.cmd c) ∧ s.cmd = c ∧ reservedOp c.op = true)

/-- The stream-state invariant: the index of `s` is legal (R25), and so is that of every directive of P still to come. -/
def State.StreamInv (s : State) : Prop :=
  s.st.legal = true ∧
  ∀ (p : BitVec 16) (i : BitVec 8), .state p i ∈ s.prog.drop s.k → i.toNat ≤ 88

/-- The decision threshold L(seg, m) of A-law (R92). -/
def alawL (seg m : Nat) : Nat := if seg = 0 then 16 * m else (16 + m) * 2 ^ (seg + 3)

/-- The interval width W(seg) of A-law (R92). -/
def alawW (seg : Nat) : Nat := if seg = 0 then 16 else 2 ^ (seg + 3)

/-- The decision threshold L(seg, m) of mu-law (R113). -/
def ulawL (seg m : Nat) : Nat := if seg = 0 ∧ m = 0 then 0 else 4 * ((16 + m) * 2 ^ (seg + 1) - 33)

/-- The next threshold up, L'(seg, m) (R113); 32768 above the last interval. -/
def ulawNextL (seg m : Nat) : Nat :=
  if m < 15 then ulawL seg (m + 1) else if seg < 7 then ulawL (seg + 1) 0 else 32768

/-- The reconstruction value T(seg, m) of mu-law (R113). -/
def ulawT (seg m : Nat) : Nat := 4 * ((2 * m + 33) * 2 ^ seg - 33)

/-- The positive magnitude that each reading of NEG_MAG encodes for a sample (R91 with `scale` 8, R112 with `scale` 4):
the sample itself if it is not negative, else |x|-1, min(|x|, 32767), or min(scale * ceil(|x| / scale), 32767). -/
def encodedMagnitude (m : NegMag) (scale : Nat) (x : Int) : Nat :=
  if 0 ≤ x then x.natAbs
  else
    match m with
    | .onesComplement => x.natAbs - 1
    | .absolute => min x.natAbs 32767
    | .shiftThenNegate => min (scale * ((x.natAbs + (scale - 1)) / scale)) 32767

/-- A transmitted G.711 byte from its fields before the mask (R84, R105). -/
def maskedByte (mask : Code8) (sign : Bool) (seg m : Nat) : Code8 :=
  (BitVec.ofBool sign ++ BitVec.ofNat 3 seg ++ BitVec.ofNat 4 m : BitVec 8) ^^^ mask

/-- The quantizer threshold Q(step, d) (R124). -/
def quantizerQ (step : Nat) (d : BitVec 3) : Nat :=
  (if d.getLsbD 2 then step else 0) + (if d.getLsbD 1 then step / 2 else 0) + (if d.getLsbD 0 then step / 4 else 0)

/-- `STEP[min(iu, 88)]` (R121, R122). -/
def stepAt (iu : Nat) : Nat := stepTable.getD (min iu 88) 0

/-- `ADJ[d]` as rule R42 tabulates it: -1 for delta 0..3, and 2, 4, 6, 8 for delta 4..7. -/
def indexMove (d : BitVec 3) : Int := if d.toNat < 4 then -1 else 2 * (d.toNat : Int) - 6

/-- The predictor adjustment for an index and a delta (R125 at the step of R122): step >> 3 plus the weighted thresholds. -/
def adjustmentAt (iu : Nat) (d : BitVec 3) : Nat := stepAt iu / 8 + quantizerQ (stepAt iu) d

/-- The new predictor (R126): the sum, saturated to 16 signed bits. -/
def saturatedPredictor (pred : Int) (neg : Bool) (adj : Nat) : Int :=
  max (-32768) (min 32767 (if neg then pred - adj else pred + adj))

/-- The new step index (R121, R127): the index that enters the sum is the clamped one, or, under `RAW_SUM`, the raw one. -/
def steppedIndex (m : IdxOor) (iu : Nat) (d : BitVec 3) : Int :=
  max 0 (min 88 (((if m = .clampFirst then min iu 88 else iu) : Nat) + indexMove d))

/-- ST_OUT of an ADPCM operation whose sign flag is `neg` and whose delta is `d` (R130, R131). -/
def adpcmStOut (m : IdxOor) (st : StWord) (neg : Bool) (d : BitVec 3) : StWord :=
  BitVec.ofInt 16 (saturatedPredictor (st.extractLsb' 8 16).toInt neg (adjustmentAt (st.extractLsb' 0 8).toNat d)) ++
    BitVec.ofInt 8 (steppedIndex m (st.extractLsb' 0 8).toNat d)

/-- The reference encoder's running reconstruction (R135): the sum starts at step >> 3, and each threshold t that is
reached is added while it quantizes. -/
def referenceRecon (mag step : Nat) : Nat :=
  let v0 := step / 8
  let v1 := if step ≤ mag then v0 + step else v0
  let r1 := if step ≤ mag then mag - step else mag
  let v2 := if step / 2 ≤ r1 then v1 + step / 2 else v1
  let r2 := if step / 2 ≤ r1 then r1 - step / 2 else r1
  if step / 4 ≤ r2 then v2 + step / 4 else v2

/-- The same implementation with another number of cores (R10). -/
def State.withNInst (n : Nat) (s : State) : State := { s with params := { s.params with nInst := n } }

end Sys2Proof.Machine
end

