-- ==== Sys2Proof/Certificates/Slice0/Obligations.lean ====
section
/-! DEFINITION. The statements for the provers. Each docstring names the rule it formalises. A statement about every state
holds for every value of the parameters NEG_MAG, IDX_OOR and N_INST, which the state carries. -/

open Sys2Proof Sys2Proof.Machine

/-! ### Commands and their words -/

/-- R72: the eight worked encodings, each source line assembled to its CMD word. -/
def Obligations.WorkedEncodingsAssemble : Prop :=
  assemble "alaw.enc 0".toList = .ok [.cmd 0x00000#19] ∧
  assemble "alaw.enc -1".toList = .ok [.cmd 0x0FFFF#19] ∧
  assemble "alaw.dec 0xD5".toList = .ok [.cmd 0x100D5#19] ∧
  assemble "ulaw.enc -32768".toList = .ok [.cmd 0x28000#19] ∧
  assemble "ulaw.dec 0x7F".toList = .ok [.cmd 0x3007F#19] ∧
  assemble "adpcm.enc 25".toList = .ok [.cmd 0x40019#19] ∧
  assemble "adpcm.dec 15".toList = .ok [.cmd 0x5000F#19] ∧
  assemble ".word 0x6ABCD".toList = .ok [.cmd 0x6ABCD#19]

/-- One word of each row of the op-code table, written out from the encodings of R88, R89, R109, R110, R130, R131 and R64,
decodes to the command it stands for. -/
def Obligations.SampleWordsDecode : Prop :=
  decode 0b0000000001111101000#19 = .alawEnc 1000#16 ∧
  decode 0b0010000000011111010#19 = .alawDec 0xFA#8 ∧
  decode 0b0100000001111101000#19 = .ulawEnc 1000#16 ∧
  decode 0b0110000000011001110#19 = .ulawDec 0xCE#8 ∧
  decode 0b1000000000000011001#19 = .adpcmEnc 25#16 ∧
  decode 0b1010000000000000111#19 = .adpcmDec 7#4 ∧
  decode 0b1101010101111001101#19 = .reservedOp110 ∧
  decode 0b1111111111111111111#19 = .reservedOp111

/-- R64: the op-code map. A word is in a row, that is `w & mask = match`, exactly when it decodes to that row's operation;
and every word is in exactly one row. -/
def Obligations.OpcodeMapSelectsOperation : Prop :=
  ∀ w : CmdWord,
    (w &&& 0x70000#19 = 0x00000#19 ↔ ∃ x, decode w = .alawEnc x) ∧
    (w &&& 0x70000#19 = 0x10000#19 ↔ ∃ c, decode w = .alawDec c) ∧
    (w &&& 0x70000#19 = 0x20000#19 ↔ ∃ x, decode w = .ulawEnc x) ∧
    (w &&& 0x70000#19 = 0x30000#19 ↔ ∃ c, decode w = .ulawDec c) ∧
    (w &&& 0x70000#19 = 0x40000#19 ↔ ∃ x, decode w = .adpcmEnc x) ∧
    (w &&& 0x70000#19 = 0x50000#19 ↔ ∃ c, decode w = .adpcmDec c) ∧
    (w &&& 0x70000#19 = 0x60000#19 ↔ decode w = .reservedOp110) ∧
    (w &&& 0x70000#19 = 0x70000#19 ↔ decode w = .reservedOp111) ∧
    (∃! r : OpRow, r ∈ opTable ∧ r.holds w = true)

/-- Decoding the canonical word of a command gives the command back, with its operand at every value; that word is
canonical, and it is the only canonical word of the command (R64, R66, R68). Which word of a reserved op is canonical is the
model's choice (log entry 15). -/
def Obligations.DecodeEncodeRoundTrip : Prop :=
  ∀ i : Instr,
    decode (encode i) = i ∧ (encode i).canonical = true ∧
    ∀ w : CmdWord, decode w = i → w.canonical = true → w = encode i

/-- Two words name the same command exactly when they have the same op and differ in ignored bits only, and there are two
different words that do (R61, R66). That all of a reserved op's `din` counts as ignored is the model's choice (log
entry 15). -/
def Obligations.SameCommandIffOperandBitsAgree : Prop :=
  (∀ w v : CmdWord, decode w = decode v ↔
    w.op = v.op ∧ w.din &&& ~~~(ignoredMask w.op) = v.din &&& ~~~(ignoredMask w.op)) ∧
  (∃ w v : CmdWord, w ≠ v ∧ decode w = decode v)

/-- R62: for a command that is not reserved, words that differ in ignored bits only have the same result in every ADPCM
state, and neither is refused. -/
def Obligations.IgnoredBitsNeverMatter : Prop :=
  ∀ (p : Config) (st : StWord) (w v : CmdWord), reservedOp w.op = false → w.op = v.op →
    w.din &&& ~~~(ignoredMask w.op) = v.din &&& ~~~(ignoredMask w.op) →
    coreTransaction p w st = coreTransaction p v st ∧
    ∀ r, coreTransaction p w st ≠ .refused r ∧ coreTransaction p v st ≠ .refused r

/-- The assembler's table (R68), in numbers. For each mnemonic: a literal in the range of its row assembles to the canonical
word `op << 16 | din` of the row's op and din, which decodes to the command the line names; every literal outside the range
is refused and no word is written; and the lines just outside each range are refused as text (their line number, 1, is
the model's choice, log entry 10). A raw word of 19 bits is copied as it stands. -/
def Obligations.AssemblerWritesCanonicalWords : Prop :=
  (∀ r ∈ [(Mnemonic.alawEnc, 0), (Mnemonic.ulawEnc, 2), (Mnemonic.adpcmEnc, 4)],
    (∀ v : Int, -32768 ≤ v → v ≤ 32767 → ∃ w : CmdWord, assembleItem (.command r.1 (.dec v)) = .ok (.cmd w) ∧
      (w.toNat : Int) = r.2 * 65536 + v % 65536 ∧ w.canonical = true ∧ decode w = Mnemonic.instr r.1 (.dec v)) ∧
    (∀ v : Int, v < -32768 ∨ 32767 < v → assembleItem (.command r.1 (.dec v)) = .error .outOfRange) ∧
    (∀ v : Nat, v ≤ 0xFFFF → ∃ w : CmdWord, assembleItem (.command r.1 (.hex v)) = .ok (.cmd w) ∧
      (w.toNat : Int) = r.2 * 65536 + v ∧ w.canonical = true ∧ decode w = Mnemonic.instr r.1 (.hex v)) ∧
    (∀ v : Nat, 0xFFFF < v → assembleItem (.command r.1 (.hex v)) = .error .outOfRange)) ∧
  (∀ r ∈ [(Mnemonic.alawDec, 1, 255), (Mnemonic.ulawDec, 3, 255), (Mnemonic.adpcmDec, 5, 15)],
    (∀ v : Int, 0 ≤ v → v ≤ r.2.2 → ∃ w : CmdWord, assembleItem (.command r.1 (.dec v)) = .ok (.cmd w) ∧
      (w.toNat : Int) = r.2.1 * 65536 + v ∧ w.canonical = true ∧ decode w = Mnemonic.instr r.1 (.dec v)) ∧
    (∀ v : Int, v < 0 ∨ r.2.2 < v → assembleItem (.command r.1 (.dec v)) = .error .outOfRange) ∧
    (∀ v : Nat, (v : Int) ≤ r.2.2 → ∃ w : CmdWord, assembleItem (.command r.1 (.hex v)) = .ok (.cmd w) ∧
      (w.toNat : Int) = r.2.1 * 65536 + v ∧ w.canonical = true ∧ decode w = Mnemonic.instr r.1 (.hex v)) ∧
    (∀ v : Nat, r.2.2 < (v : Int) → assembleItem (.command r.1 (.hex v)) = .error .outOfRange)) ∧
  (∀ line ∈ ["alaw.enc 32768", "alaw.enc -32769", "alaw.enc 0x10000", "alaw.dec 256", "alaw.dec -1", "alaw.dec 0x100",
      "ulaw.enc 32768", "ulaw.enc -32769", "ulaw.enc 0x10000", "ulaw.dec 256", "ulaw.dec -1", "ulaw.dec 0x100",
      "adpcm.enc 32768", "adpcm.enc -32769", "adpcm.enc 0x10000", "adpcm.dec 16", "adpcm.dec -1", "adpcm.dec 0x10"],
    assemble line.toList = .error (1, .outOfRange)) ∧
  (∀ v : Nat, (v < 524288 → ∃ w : CmdWord, assembleItem (.rawWord v) = .ok (.cmd w) ∧ w.toNat = v) ∧
    (524288 ≤ v → assembleItem (.rawWord v) = .error .outOfRange))

/-- R68, R69: assembling the disassembly of a word gives the word's canonical form, or the word itself if its op is
reserved. -/
def Obligations.DisassemblyAssemblesBack : Prop :=
  ∀ w : CmdWord,
    assemble (disassemble w) = .ok [.cmd (if reservedOp w.op = true then w else encode (decode w))]

/-! ### The transaction and the refusal -/

/-- R150, R152: a command whose op is 0b000..0b101 completes for every `din`, every ST_IN and all parameters; a reserved op
is refused, from `op` alone, whatever `din` and ST_IN hold, and the refusal records the op value. -/
def Obligations.OutcomeDependsOnOpAlone : Prop :=
  ∀ (p : Config) (w : CmdWord) (st : StWord),
    (reservedOp w.op = false → ∃ (d : Dout) (st' : StWord), coreTransaction p w st = .ok d st') ∧
    (reservedOp w.op = true → coreTransaction p w st = .refused (.reservedOp w.op))

/-- A reserved op is refused (R151); `refused` becomes true and nothing else of the harness changes (R33); OUTCOME carries the
refusal with its op value; and the run ends there, with no normal observation (R34). The model's reading and choices here:
the refusal is a next state, and OUTCOME is read from the command that CMD still holds (log entries 3 and 5); having no
step is the fault `runRefused` (log entry 4). -/
def Obligations.ReservedOpEndsRunRefused : Prop :=
  ∀ (s : State) (c : CmdWord), s.refused = false → s.prog[s.k]? = some (.cmd c) → reservedOp c.op = true →
    ∃ t : State, step s = .next t ∧
      t = { s with cmd := c, stIn := s.st, refused := true } ∧
      t.outputs = .refused (.reservedOp c.op) ∧
      t.observation = none ∧ step t = .fault .runRefused

/-- The two reserved commands complete, as the harness meets them, by taking `refused <- true` (R33, R151). -/
def Obligations.ReservedCommandsTakeRefusal : Prop :=
  ∀ s : State,
    exec .reservedOp110 s = .next { s with refused := true } ∧
    exec .reservedOp111 s = .next { s with refused := true }

/-- R20: what a transaction does is a function of the command, the state on ST_IN and the parameters alone. Two harnesses
that are about to run the same command from the same stream state take the same DOUT and the same ST_OUT, or are both
refused, whatever else they hold. -/
def Obligations.ResultsDependOnInputsAlone : Prop :=
  ∀ (s t : State) (c : CmdWord), s.params = t.params → s.st = t.st → s.refused = false → t.refused = false →
    s.prog[s.k]? = some (.cmd c) → t.prog[t.k]? = some (.cmd c) →
    ∃ s' t' : State, step s = .next s' ∧ step t = .next t' ∧ s'.st = t'.st ∧ s'.refused = t'.refused ∧
      s'.outputs = t'.outputs ∧
      ((s'.refused = true ∧ s'.out = s.out ∧ t'.out = t.out) ∨
        ∃ d : Dout, s'.out = s.out ++ [d] ∧ t'.out = t.out ++ [d])

/-! ### The harness -/

/-- A step runs the decoded command: the word at `k` is driven on CMD and the stream state on ST_IN (R22, R33), and the step
is `exec` of the decoded command there. -/
def Obligations.StepRunsDecodedCommand : Prop :=
  ∀ (s : State) (c : CmdWord), s.refused = false → s.prog[s.k]? = some (.cmd c) →
    step s = exec (decode c) { s with cmd := c, stIn := s.st }

/-- The harness step (R33). No step when refused or at the end of P; a directive sets `s`; a command takes `Core(c, s)`: OK
appends DOUT, threads ST_OUT and advances `k`; a refusal sets `refused` and does not advance `k`. The command and the state
it was given are driven on the input ports (R22). The model's choices here: having no step is a fault, `runRefused` or
`runEnded` (log entry 4), and the port values are held (log entry 5). -/
def Obligations.HarnessStepFollowsCore : Prop :=
  ∀ s : State,
    (s.refused = true → step s = .fault .runRefused) ∧
    (s.refused = false → s.k = s.prog.length → step s = .fault .runEnded) ∧
    (∀ (p : BitVec 16) (i : BitVec 8), s.refused = false → s.prog[s.k]? = some (.state p i) →
      step s = .next { s with st := p ++ i, k := s.k + 1 }) ∧
    (∀ c : CmdWord, s.refused = false → s.prog[s.k]? = some (.cmd c) →
      (∀ (d : Dout) (s2 : StWord), coreTransaction s.params c s.st = .ok d s2 →
        step s = .next { s with cmd := c, stIn := s.st, out := s.out ++ [d], st := s2, k := s.k + 1 }) ∧
      (∀ r, coreTransaction s.params c s.st = .refused r →
        step s = .next { s with cmd := c, stIn := s.st, refused := true }))

/-- R70: the directive sets the stream state to the ST word `bits_16(pred) << 8 | idx`, for the literals of its line. -/
def Obligations.StateDirectiveSetsStream : Prop :=
  ∀ (s : State) (lp li : Literal), lp.isSample = true → li.isUpTo 255 = true →
    ∃ item : Item, assembleItem (.state lp li) = .ok item ∧
      (s.refused = false → s.prog[s.k]? = some item →
        step s = .next { s with
          st := ((Literal.bits16 lp).setWidth 24 <<< 8) ||| BitVec.ofNat 24 (Literal.value li), k := s.k + 1 })

/-- The harness has a step exactly when it is not refused and an item is left (R33); it never stops for any other reason,
and no step is without a meaning. -/
def Obligations.StepStopsOnlyAtRunEnd : Prop :=
  ∀ s : State,
    ((∃ t, step s = .next t) ↔ s.refused = false ∧ s.k < s.prog.length) ∧
    (step s = .fault .runEnded ↔ s.refused = false ∧ s.prog.length ≤ s.k) ∧
    (step s = .fault .runRefused ↔ s.refused = true) ∧
    ∀ r, step s ≠ .refused r

/-- What one step leaves unchanged: the parameters (R172) and the program; an item that completes advances `k` by exactly 1
(R73) and appends at most one DOUT; a refused one changes neither `k` nor `s` nor `out` (R33, R151). -/
def Obligations.StepFrame : Prop :=
  ∀ s t : State, step s = .next t →
    t.params = s.params ∧ t.prog = s.prog ∧
    (t.refused = false → t.k = s.k + 1 ∧ (t.out = s.out ∨ ∃ d, t.out = s.out ++ [d])) ∧
    (t.refused = true → t.k = s.k ∧ t.st = s.st ∧ t.out = s.out)

/-- From any harness state whose `k` is within P, the run ends after at most as many steps as items are left, either
refused, with no observation, or normally, with the final (s, out) as its observation (R34). That having no step is a fault
is the model's choice (log entry 4). -/
def Obligations.EveryRunEnds : Prop :=
  ∀ s : State, s.k ≤ s.prog.length →
    ∃ (n : Nat) (t : State), n ≤ s.prog.length - s.k ∧ Sys2Proof.core.run n s = .next t ∧
      (∃ f, step t = .fault f) ∧
      ((t.refused = true ∧ t.observation = none) ∨
        (t.refused = false ∧ t.k = t.prog.length ∧ t.observation = some (t.st, t.out)))

/-- Every step keeps the harness invariant: `k` within P, one DOUT for each command passed, and a refused run standing at
the reserved command (R31, R33, R151). That CMD still carries that command is the model's reading (log entry 3) of a port
whose value the model holds (log entry 5). -/
def Obligations.StepKeepsHarnessInv : Prop :=
  ∀ s t : State, s.HarnessInv → step s = .next t → t.HarnessInv

/-- Every step keeps the step index of the stream state legal, 0..88, if no directive still to come sets it to another value
(R25, R133). -/
def Obligations.StepKeepsStreamInv : Prop :=
  ∀ s t : State, s.StreamInv → step s = .next t → t.StreamInv

/-- The machine at reset, and a harness at the start of any program, meet the harness invariant; and at reset the stream
state is legal (R27, R32). -/
def Obligations.StartStatesMeetInvariants : Prop :=
  (∀ (p : Config) (prog : List Item) (st : StWord), (State.start p prog st).HarnessInv) ∧
  State.reset.HarnessInv ∧ State.reset.StreamInv

/-- R32: the harness start state, whose `s` is the default 0x000000 unless another is given. -/
def Obligations.HarnessStartState : Prop :=
  (State.reset.k = 0 ∧ State.reset.st = 0x000000#24 ∧ State.reset.out = [] ∧ State.reset.refused = false) ∧
  ∀ (p : Config) (prog : List Item) (st : StWord),
    (State.start p prog st).k = 0 ∧ (State.start p prog st).st = st ∧ (State.start p prog st).out = [] ∧
    (State.start p prog st).refused = false ∧ (State.start p prog st).prog = prog

/-- R27: the default ADPCM state is predictor 0 and step index 0, the ST word 0x000000. -/
def Obligations.DefaultStreamState : Prop :=
  State.reset.st = 0x000000#24 ∧ (stPred State.reset.st).toInt = 0 ∧ (stIdx State.reset.st).toNat = 0

/-- The parameters at reset are the spec's defaults for NEG_MAG (R8) and IDX_OOR (R9). -/
def Obligations.ResetParametersAreDefaults : Prop :=
  State.reset.params.negMag = .onesComplement ∧ State.reset.params.idxOor = .clampFirst

/-- A word the host places for the next step is decoded and run by it (the model's own interface, log entries 6 and 7). -/
def Obligations.PlacedWordRunsNext : Prop :=
  ∀ (s : State) (nbits w : Nat), ∃ (c : CmdWord) (i : Instr),
    c.toNat = w % 2 ^ nbits % 2 ^ 19 ∧ decodeTableWord nbits w = some i ∧ decode c = i ∧
    step (s.withFetchWord nbits w) = exec i { s.withFetchWord nbits w with cmd := c, stIn := s.st }

/-- A program of commands that are not reserved, run from the start state, ends normally with the DOUT values and the state
of the stream that threads each ST_OUT into the next ST_IN (R26, R33, R49, R173). -/
def Obligations.HarnessRunThreadsStream : Prop :=
  ∀ (p : Config) (st : StWord) (is : List Instr), (∀ i ∈ is, reservedOp i.op = false) →
    ∃ t : State, Sys2Proof.core.run is.length (State.start p (commandProgram is) st) = .next t ∧
      (threadStream p st is).length = is.length ∧
      t.observation = some (streamState st (threadStream p st is), (threadStream p st is).map Prod.fst)

/-! ### Frames, results and cores -/

/-- The frame of every command, as the harness runs it: the parameters, the program and the input ports are unchanged; a
command that is not reserved appends one DOUT and advances `k`, and only an ADPCM operation writes the stream state (R28); a
reserved one sets `refused` and nothing else (R151). -/
def Obligations.ExecFrame : Prop :=
  ∀ (i : Instr) (s t : State), exec i s = .next t →
    t.params = s.params ∧ t.prog = s.prog ∧ t.cmd = s.cmd ∧ t.stIn = s.stIn ∧
    (reservedOp i.op = false → t.refused = s.refused ∧ t.k = s.k + 1 ∧ (∃ d, t.out = s.out ++ [d]) ∧
      (t.st = s.st ∨ (∃ x, i = .adpcmEnc x) ∨ ∃ c, i = .adpcmDec c)) ∧
    (reservedOp i.op = true → t = { s with refused := true })

/-- R28: the four G.711 operations pass the ADPCM state through, bit for bit, whatever its index, and read no part of it:
each completes with one DOUT that is the same for every ADPCM state. -/
def Obligations.G711PassesStateThrough : Prop :=
  ∀ (s : State) (i : Instr),
    ((∃ x, i = .alawEnc x) ∨ (∃ c, i = .alawDec c) ∨ (∃ x, i = .ulawEnc x) ∨ (∃ c, i = .ulawDec c)) →
    ∃ d : Dout, ∀ st : StWord,
      exec i { s with st := st } = .next { s with st := st, out := s.out ++ [d], k := s.k + 1 } ∧
      transact s.params i st = .ok d st

/-- R63: the encoders drive their code zero-extended, the decoders the two's-complement form of their sample. -/
def Obligations.OutputAssembly : Prop :=
  (∀ (p : Config) (x : Sample) (st : StWord), ∃ (a u : Code8) (c : Code4) (s1 : StWord),
    transact p (.alawEnc x) st = .ok (a.setWidth 16) st ∧ a = alawEncode p.negMag x ∧
    transact p (.ulawEnc x) st = .ok (u.setWidth 16) st ∧ u = ulawEncode p.negMag x ∧
    transact p (.adpcmEnc x) st = .ok (c.setWidth 16) s1 ∧
    (a.setWidth 16).extractLsb' 8 8 = 0#8 ∧ (u.setWidth 16).extractLsb' 8 8 = 0#8 ∧
    (c.setWidth 16).extractLsb' 4 12 = 0#12) ∧
  (∀ (p : Config) (c : Code8) (st : StWord), ∃ da du : Dout,
    transact p (.alawDec c) st = .ok da st ∧ da.toInt = alawDecode c ∧
    transact p (.ulawDec c) st = .ok du st ∧ du.toInt = ulawDecode c) ∧
  (∀ (p : Config) (c : Code4) (st : StWord), ∃ (d : Dout) (st' : StWord),
    transact p (.adpcmDec c) st = .ok d st' ∧ d.toInt = (stPred st').toInt)

/-- R10: no rule of a single core depends on N_INST: a step is the same step for every value of it. -/
def Obligations.StepIgnoresCoreCount : Prop :=
  ∀ (n : Nat) (s : State),
    match step s with
    | .next t => step (s.withNInst n) = .next (t.withNInst n)
    | .fault f => step (s.withNInst n) = .fault f
    | .refused r => step (s.withNInst n) = .refused r

/-- Transactions of different streams, on one core or on different cores, are independent (R49, R156, R177). A step of one
stream on a core leaves every core and every other stream as it was; any step of another stream, on any core (the same one
too), comes out as before, whether it goes on or stops; and two such steps give the same system in either order. The form of a system, and that no
step is a fault, are the model's choices (log entries 12 and 4). -/
def Obligations.CoresDoNotInterfere : Prop :=
  ∀ (y y1 : System) (c i : Nat), y.stepStream c i = some (.next y1) →
    y1.cores = y.cores ∧ y1.streams.length = y.streams.length ∧
    (∀ n, n ≠ i → y1.streams[n]? = y.streams[n]?) ∧
    ∀ d j : Nat, i ≠ j →
      (∀ f, y.stepStream d j = some (.fault f) → y1.stepStream d j = some (.fault f)) ∧
      (∀ y2, y.stepStream d j = some (.next y2) →
        ∃ z : System, y1.stepStream d j = some (.next z) ∧ y2.stepStream c i = some (.next z))

/-- A core has no identifier a program can see, and identical inputs give identical outputs on any core (R156, R177): in a
well formed system a stream's step is the same on every core, and it is the step of that stream's harness alone. The form
of a system, and that no step is a fault, are the model's choices (log entries 12 and 4). -/
def Obligations.EveryCoreGivesTheSameStep : Prop :=
  ∀ (y : System) (c j : Nat) (s : State), y.wellFormed = true → c < y.cores.length → y.streams[j]? = some s →
    (∀ d, d < y.cores.length → y.stepStream d j = y.stepStream c j) ∧
    (∀ t, step s = .next t → y.stepStream c j = some (.next { y with streams := y.streams.set j t })) ∧
    (∀ f, step s = .fault f → y.stepStream c j = some (.fault f))

/-- The cores of a system stay of one implementation (R10, R172, R177): a step of a stream keeps the system well formed, and
a system of at least one core, with any number of streams, is well formed at reset. The form of a system is the model's
choice (log entry 12). -/
def Obligations.SystemStaysWellFormed : Prop :=
  (∀ (y z : System) (c j : Nat), y.wellFormed = true → y.stepStream c j = some (.next z) → z.wellFormed = true) ∧
  (∀ n m : Nat, 0 < n → (System.reset n m).wellFormed = true)

/-! ### The A-law unit -/

/-- ALAW.ENC completes for every sample in every state (R88), and its code is that of the one interval between decision
thresholds (R92) which holds the magnitude that NEG_MAG gives the sample (R81, R91): segment and mantissa under the
even-bit inversion, with the sign bit 1 for x ≥ 0 (R84). -/
def Obligations.AlawEncResult : Prop :=
  ∀ (s : State) (x : Sample), ∃ seg m : Nat, seg < 8 ∧ m < 16 ∧
    alawL seg m ≤ encodedMagnitude s.params.negMag 8 x.toInt ∧
    encodedMagnitude s.params.negMag 8 x.toInt < alawL seg m + alawW seg ∧
    (∀ seg' m' : Nat, seg' < 8 → m' < 16 → alawL seg' m' ≤ encodedMagnitude s.params.negMag 8 x.toInt →
      encodedMagnitude s.params.negMag 8 x.toInt < alawL seg' m' + alawW seg' → seg' = seg ∧ m' = m) ∧
    exec (.alawEnc x) s = .next { s with
      out := s.out ++ [(maskedByte 0x55#8 (decide (0 ≤ x.toInt)) seg m).setWidth 16], k := s.k + 1 }

/-- ALAW.DEC completes for every code in every state (R89): the code is the masked byte of a sign, a segment and a
mantissa, and the sample is the centre of that interval (R92) with the sign applied (R87). -/
def Obligations.AlawDecResult : Prop :=
  ∀ (s : State) (c : Code8), ∃ (sign : Bool) (seg m : Nat), seg < 8 ∧ m < 16 ∧ c = maskedByte 0x55#8 sign seg m ∧
    exec (.alawDec c) s = .next { s with
      out := s.out ++ [BitVec.ofInt 16 (if sign then ((alawL seg m + alawW seg / 2 : Nat) : Int)
        else -((alawL seg m + alawW seg / 2 : Nat) : Int))],
      k := s.k + 1 }

/-- R90: the six A-law laws, under every NEG_MAG: totality, the known vector, round trip on codes, idempotence, symmetry of
the decoder, and monotonicity. -/
def Obligations.AlawLaws : Prop :=
  ∀ n : NegMag,
    ((∀ x : Sample, (alawEncode n x).toNat ≤ 255) ∧ ∀ c : Code8, -32256 ≤ alawDecode c ∧ alawDecode c ≤ 32256) ∧
    alawEncode n 0#16 = 0xD5#8 ∧
    (∀ c : Code8, alawEncode n (doutOfSample (alawDecode c)) = c) ∧
    (∀ c : Code8, alawDecode (alawEncode n (doutOfSample (alawDecode c))) = alawDecode c) ∧
    (∀ c : Code8, alawDecode (c ^^^ 0x80#8) = -alawDecode c) ∧
    (∀ x1 x2 : Sample, 0 ≤ x1.toInt → x1.toInt ≤ x2.toInt →
      alawDecode (alawEncode n x1) ≤ alawDecode (alawEncode n x2))

/-- The A-law code of a sample depends on NEG_MAG only near the negated decision thresholds (R91): where each two readings
differ, with L a nonzero threshold of R92. -/
def Obligations.AlawNegMagDependence : Prop :=
  (∀ (x : Sample) (n n' : NegMag), 0 ≤ x.toInt → alawEncode n x = alawEncode n' x) ∧
  (∀ (c : Code8) (n n' : NegMag),
    alawEncode n (doutOfSample (alawDecode c)) = alawEncode n' (doutOfSample (alawDecode c))) ∧
  ∀ x : Sample, x.toInt < 0 →
    (alawEncode .onesComplement x ≠ alawEncode .absolute x ↔
      ∃ seg m : Nat, seg < 8 ∧ m < 16 ∧ 0 < alawL seg m ∧ x.toInt.natAbs = alawL seg m) ∧
    (alawEncode .onesComplement x ≠ alawEncode .shiftThenNegate x ↔
      ∃ seg m : Nat, seg < 8 ∧ m < 16 ∧ 0 < alawL seg m ∧
        alawL seg m < x.toInt.natAbs + 8 ∧ x.toInt.natAbs ≤ alawL seg m) ∧
    (alawEncode .absolute x ≠ alawEncode .shiftThenNegate x ↔
      ∃ seg m : Nat, seg < 8 ∧ m < 16 ∧ 0 < alawL seg m ∧
        alawL seg m < x.toInt.natAbs + 8 ∧ x.toInt.natAbs < alawL seg m)

/-! ### The mu-law unit -/

/-- ULAW.ENC completes for every sample in every state (R109), and its code is that of the one interval between decision
thresholds (R113) which holds the magnitude that NEG_MAG gives the sample (R101, R112): segment and mantissa under the
one's complement, with the sign bit 1 for x < 0 (R105). -/
def Obligations.UlawEncResult : Prop :=
  ∀ (s : State) (x : Sample), ∃ seg m : Nat, seg < 8 ∧ m < 16 ∧
    ulawL seg m ≤ encodedMagnitude s.params.negMag 4 x.toInt ∧
    encodedMagnitude s.params.negMag 4 x.toInt < ulawNextL seg m ∧
    (∀ seg' m' : Nat, seg' < 8 → m' < 16 → ulawL seg' m' ≤ encodedMagnitude s.params.negMag 4 x.toInt →
      encodedMagnitude s.params.negMag 4 x.toInt < ulawNextL seg' m' → seg' = seg ∧ m' = m) ∧
    exec (.ulawEnc x) s = .next { s with
      out := s.out ++ [(maskedByte 0xFF#8 (decide (x.toInt < 0)) seg m).setWidth 16], k := s.k + 1 }

/-- ULAW.DEC completes for every code in every state (R110): the code is the masked byte of a sign, a segment and a
mantissa, and the sample is T(seg, m) of R113 with the sign applied (R108). -/
def Obligations.UlawDecResult : Prop :=
  ∀ (s : State) (c : Code8), ∃ (sign : Bool) (seg m : Nat), seg < 8 ∧ m < 16 ∧ c = maskedByte 0xFF#8 sign seg m ∧
    exec (.ulawDec c) s = .next { s with
      out := s.out ++ [BitVec.ofInt 16 (if sign then -(ulawT seg m : Int) else (ulawT seg m : Int))],
      k := s.k + 1 }

/-- R111: the six mu-law laws, under every NEG_MAG: totality, the known vector, round trip on codes but for 0x7F,
idempotence, symmetry of the decoder, and monotonicity. -/
def Obligations.UlawLaws : Prop :=
  ∀ n : NegMag,
    ((∀ x : Sample, (ulawEncode n x).toNat ≤ 255) ∧ ∀ c : Code8, -32124 ≤ ulawDecode c ∧ ulawDecode c ≤ 32124) ∧
    ulawEncode n 0#16 = 0xFF#8 ∧
    (∀ c : Code8, c ≠ 0x7F#8 → ulawEncode n (doutOfSample (ulawDecode c)) = c) ∧
    (ulawDecode 0x7F#8 = 0 ∧ ulawEncode n (doutOfSample (ulawDecode 0x7F#8)) = 0xFF#8) ∧
    (∀ c : Code8, ulawDecode (ulawEncode n (doutOfSample (ulawDecode c))) = ulawDecode c) ∧
    (∀ c : Code8, ulawDecode (c ^^^ 0x80#8) = -ulawDecode c) ∧
    (∀ x1 x2 : Sample, 0 ≤ x1.toInt → x1.toInt ≤ x2.toInt →
      ulawDecode (ulawEncode n x1) ≤ ulawDecode (ulawEncode n x2))

/-- The mu-law code of a sample depends on NEG_MAG only near the negated decision thresholds (R112): where each two
readings differ, with L a nonzero threshold of R113. -/
def Obligations.UlawNegMagDependence : Prop :=
  (∀ (x : Sample) (n n' : NegMag), 0 ≤ x.toInt → ulawEncode n x = ulawEncode n' x) ∧
  (∀ (c : Code8) (n n' : NegMag),
    ulawEncode n (doutOfSample (ulawDecode c)) = ulawEncode n' (doutOfSample (ulawDecode c))) ∧
  ∀ x : Sample, x.toInt < 0 →
    (ulawEncode .onesComplement x ≠ ulawEncode .absolute x ↔
      ∃ seg m : Nat, seg < 8 ∧ m < 16 ∧ 0 < ulawL seg m ∧ x.toInt.natAbs = ulawL seg m) ∧
    (ulawEncode .onesComplement x ≠ ulawEncode .shiftThenNegate x ↔
      ∃ seg m : Nat, seg < 8 ∧ m < 16 ∧ 0 < ulawL seg m ∧
        ulawL seg m < x.toInt.natAbs + 4 ∧ x.toInt.natAbs ≤ ulawL seg m) ∧
    (ulawEncode .absolute x ≠ ulawEncode .shiftThenNegate x ↔
      ∃ seg m : Nat, seg < 8 ∧ m < 16 ∧ 0 < ulawL seg m ∧
        ulawL seg m < x.toInt.natAbs + 4 ∧ x.toInt.natAbs < ulawL seg m)

/-! ### The IMA ADPCM unit -/

/-- ADPCM.ENC completes for every sample in every state (R130). Delta is the largest d whose threshold Q(step, d) the
magnitude of the difference reaches (R124); DOUT is 8 for a negative difference, plus delta (R128); and ST_OUT holds the
saturated predictor (R126) and the clamped index (R127). -/
def Obligations.AdpcmEncResult : Prop :=
  ∀ (s : State) (x : Sample), ∃ (diff : Int) (d : BitVec 3),
    diff = x.toInt - (s.st.extractLsb' 8 16).toInt ∧
    quantizerQ (stepAt (s.st.extractLsb' 0 8).toNat) d ≤ diff.natAbs ∧
    (∀ e : BitVec 3, quantizerQ (stepAt (s.st.extractLsb' 0 8).toNat) e ≤ diff.natAbs → e.toNat ≤ d.toNat) ∧
    exec (.adpcmEnc x) s = .next { s with
      out := s.out ++ [BitVec.ofNat 16 ((if diff < 0 then 8 else 0) + d.toNat)],
      st := adpcmStOut s.params.idxOor s.st (decide (diff < 0)) d,
      k := s.k + 1 }

/-- ADPCM.DEC completes for every code in every state (R131): bit 3 of the code is the sign, bits 2:0 are delta (R129); the
sample on DOUT is the new predictor, and ST_OUT holds it and the clamped index. -/
def Obligations.AdpcmDecResult : Prop :=
  ∀ (s : State) (c : Code4), ∃ (neg : Bool) (d : BitVec 3) (st' : StWord),
    c.toNat = (if neg then 8 else 0) + d.toNat ∧ st' = adpcmStOut s.params.idxOor s.st neg d ∧
    exec (.adpcmDec c) s = .next { s with
      out := s.out ++ [st'.extractLsb' 8 16], st := st', k := s.k + 1 }

/-- R132: encoder and decoder synchronization. On one transaction, decoding the encoder's code from the same state gives the
encoder's new predictor and state; over a sequence, the decoder that receives every code in order passes through the
encoder's states, and its samples are the encoder's successive predictors. -/
def Obligations.EncoderDecoderSynchronised : Prop :=
  ∀ p : Config,
    (∀ (x : Sample) (st st' : StWord) (d : Dout), transact p (.adpcmEnc x) st = .ok d st' →
      transact p (.adpcmDec (d.setWidth 4)) st = .ok (stPred st') st') ∧
    (∀ (st : StWord) (xs : List Sample),
      (threadStream p st (encodingStream xs)).length = xs.length ∧
      threadStream p st (decodingStream (threadStream p st (encodingStream xs))) =
        (threadStream p st (encodingStream xs)).map fun r => (stPred r.2, r.2))

/-- R133: after any ADPCM operation the predictor is in -32768..32767 and the index in 0..88, whatever ST_IN was; hence
every state that a stream of ADPCM transactions reaches after its first one is in range, from any start state. -/
def Obligations.AdpcmStateBounds : Prop :=
  (∀ (i : Instr) (s : State), ((∃ x, i = .adpcmEnc x) ∨ ∃ c, i = .adpcmDec c) →
    ∃ t : State, exec i s = .next t ∧ (stIdx t.st).toNat ≤ 88 ∧
      -32768 ≤ (stPred t.st).toInt ∧ (stPred t.st).toInt ≤ 32767) ∧
  (∀ (p : Config) (st : StWord) (is : List Instr),
    (∀ i ∈ is, (∃ x, i = .adpcmEnc x) ∨ ∃ c, i = .adpcmDec c) →
    ∀ r ∈ threadStream p st is, (stIdx r.2).toNat ≤ 88 ∧
      -32768 ≤ (stPred r.2).toInt ∧ (stPred r.2).toInt ≤ 32767)

/-- R134: for a legal index the two values of IDX_OOR agree; the new index depends on the old one and delta only, falling by
1 (not below 0) or rising by 2, 4, 6 or 8 (not above 88); and the predictor moves by an amount that depends on the old
index and delta only, so that codes c and c ⊕ 8 move it equally far. For both operations: the code of ADPCM.DEC is its
operand, that of ADPCM.ENC the one it drives on DOUT, sign in bit 3 and delta in bits 2:0. -/
def Obligations.IndexOnlyDependence : Prop :=
  (∀ (p q : Config) (st : StWord), st.legal = true →
    (∀ x : Sample, transact p (.adpcmEnc x) st = transact q (.adpcmEnc x) st) ∧
    (∀ c : Code4, transact p (.adpcmDec c) st = transact q (.adpcmDec c) st)) ∧
  (∃ move : BitVec 8 → BitVec 3 → Nat, ∀ (p : Config) (st : StWord), st.legal = true →
    (∀ c : Code4, ∃ (d : Dout) (st' : StWord), transact p (.adpcmDec c) st = .ok d st' ∧
      (stIdx st').toNat =
        (if c.toNat % 8 < 4 then (stIdx st).toNat - 1 else min 88 ((stIdx st).toNat + 2 * (c.toNat % 8 - 3))) ∧
      (stPred st').toInt = max (-32768) (min 32767 ((stPred st).toInt +
        (if 8 ≤ c.toNat then -(move (stIdx st) (c.extractLsb' 0 3) : Int) else move (stIdx st) (c.extractLsb' 0 3))))) ∧
    (∀ x : Sample, ∃ (d : Dout) (st' : StWord), transact p (.adpcmEnc x) st = .ok d st' ∧ d.toNat < 16 ∧
      (8 ≤ d.toNat ↔ x.toInt < (stPred st).toInt) ∧
      (stIdx st').toNat =
        (if d.toNat % 8 < 4 then (stIdx st).toNat - 1 else min 88 ((stIdx st).toNat + 2 * (d.toNat % 8 - 3))) ∧
      (stPred st').toInt = max (-32768) (min 32767 ((stPred st).toInt +
        (if 8 ≤ d.toNat then -(move (stIdx st) (d.extractLsb' 0 3) : Int) else move (stIdx st) (d.extractLsb' 0 3))))))

/-- For an index above 88 the two values of IDX_OOR give the same DOUT and the same predictor, and the same index 88 when
delta is 4..7; when delta is 0..3, CLAMP_FIRST gives 87 and RAW_SUM gives 88 (R121, behaviour U5). -/
def Obligations.OutOfRangeIndexParameter : Prop :=
  ∀ (p q : Config) (st : StWord) (i : Instr), st.legal = false → p.idxOor = .clampFirst → q.idxOor = .rawSum →
    ((∃ x, i = .adpcmEnc x) ∨ ∃ c, i = .adpcmDec c) →
    ∃ (d : Dout) (pred : BitVec 16) (ip iq : BitVec 8),
      transact p i st = .ok d (packSt pred ip) ∧ transact q i st = .ok d (packSt pred iq) ∧ iq = 88#8 ∧
      ((∀ c : Code4, i = .adpcmDec c → ip = if c.toNat % 8 < 4 then 87#8 else 88#8) ∧
       (∀ x : Sample, i = .adpcmEnc x → ip = if d.toNat % 8 < 4 then 87#8 else 88#8))

/-- R135: the reference encoder's running sum, accumulated while it quantizes, is diffq of R125 for the delta of R124. -/
def Obligations.ReferenceEncoderEquivalence : Prop :=
  ∀ mag step : Nat, referenceRecon mag step = adpcmRecon step (adpcmQuantize mag step)

/-- When ADPCM.ENC gives code 8 (R128): exactly when -(step >> 2) < diff < 0, never at index 0, and at every higher index
for some sample and predictor. -/
def Obligations.WhenCodeEightOccurs : Prop :=
  (∀ (p : Config) (x : Sample) (st st' : StWord) (d : Dout), transact p (.adpcmEnc x) st = .ok d st' →
    (d = 8#16 ↔ -((stepAt (stIdx st).toNat / 4 : Nat) : Int) < x.toInt - (stPred st).toInt ∧
      x.toInt - (stPred st).toInt < 0) ∧
    ((stIdx st).toNat = 0 → d ≠ 8#16)) ∧
  (∀ (p : Config) (i : BitVec 8), 1 ≤ i.toNat → ∃ (x : Sample) (pred : BitVec 16) (st' : StWord),
    transact p (.adpcmEnc x) (packSt pred i) = .ok 8#16 st')

/-- R44: properties of STEP. It is strictly increasing, STEP[0] = 7 and STEP[88] = 32767, every entry is at least 7, and
`STEP[i] >> 3` is 0 only for i = 0 and is 1 for i in 1..7. -/
def Obligations.StepTableProperties : Prop :=
  (∀ i j : Fin 89, i < j → romStep i < romStep j) ∧ romStep 0 = 7 ∧ romStep 88 = 32767 ∧
  (∀ i : Fin 89, 7 ≤ romStep i) ∧ (∀ i : Fin 89, romStep i >>> 3 = 0 ↔ i = 0) ∧
  (∀ i : Fin 89, 1 ≤ i.val → i.val ≤ 7 → romStep i >>> 3 = 1)

/-- R42: the table ADJ, one signed entry for each delta. -/
def Obligations.AdjTableValues : Prop :=
  (∀ d : BitVec 3, d.toNat < 4 → romAdj d = -1) ∧
  romAdj 4#3 = 2 ∧ romAdj 5#3 = 4 ∧ romAdj 6#3 = 6 ∧ romAdj 7#3 = 8
end

