-- ==== Sys2Proof/Laws/Words.lean ====
section
/-! SUPPORT. The fields of the words: reading a field of a word built from fields gives the field. -/

namespace Sys2Proof.Machine

@[simp] theorem stPred_packSt (p : BitVec 16) (i : BitVec 8) : stPred (packSt p i) = p := by
  apply BitVec.eq_of_getLsbD_eq
  intro n hn
  simp only [stPred, packSt, BitVec.getLsbD_append, BitVec.getLsbD_extractLsb']
  simp [hn]

@[simp] theorem stIdx_packSt (p : BitVec 16) (i : BitVec 8) : stIdx (packSt p i) = i := by
  apply BitVec.eq_of_getLsbD_eq
  intro n hn
  simp only [stIdx, packSt, BitVec.getLsbD_append, BitVec.getLsbD_extractLsb']
  simp [hn]

/-- A state word is its two fields (R60). -/
theorem packSt_fields (st : StWord) : packSt (stPred st) (stIdx st) = st := by
  apply BitVec.eq_of_getLsbD_eq
  intro n hn
  simp only [stIdx, stPred, packSt, BitVec.getLsbD_append, BitVec.getLsbD_extractLsb']
  by_cases h : n < 8
  · simp [h]
  · simp [h, show 8 + (n - 8) = n by omega, show n - 8 < 16 by omega]

@[simp] theorem op_cmdWord (op : OpField) (din : BitVec 16) : CmdWord.op (cmdWord op din) = op := by
  apply BitVec.eq_of_getLsbD_eq
  intro n hn
  simp only [CmdWord.op, cmdWord, BitVec.getLsbD_append, BitVec.getLsbD_extractLsb']
  simp [hn]

@[simp] theorem din_cmdWord (op : OpField) (din : BitVec 16) : CmdWord.din (cmdWord op din) = din := by
  apply BitVec.eq_of_getLsbD_eq
  intro n hn
  simp only [CmdWord.din, cmdWord, BitVec.getLsbD_append, BitVec.getLsbD_extractLsb']
  simp [hn]

/-- A CMD word is its two fields (R60). -/
theorem cmdWord_fields (w : CmdWord) : cmdWord (CmdWord.op w) (CmdWord.din w) = w := by
  apply BitVec.eq_of_getLsbD_eq
  intro n hn
  simp only [CmdWord.op, CmdWord.din, cmdWord, BitVec.getLsbD_append, BitVec.getLsbD_extractLsb']
  by_cases h : n < 16
  · simp [h]
  · simp [h, show 16 + (n - 16) = n by omega, show n - 16 < 3 by omega]

@[simp] theorem op_encode (i : Instr) : CmdWord.op (encode i) = i.op := op_cmdWord _ _

@[simp] theorem din_encode (i : Instr) : CmdWord.din (encode i) = i.din := din_cmdWord _ _

/-- The check of R66 in terms of the two fields. -/
theorem canonical_eq (w : CmdWord) :
    CmdWord.canonical w = decide (CmdWord.din w &&& ignoredMask (CmdWord.op w) = 0#16) := rfl

/-- A code comes back from DOUT, which holds it zero-extended (R63). -/
@[simp] theorem code4_of_dout (c : Code4) : (doutOfCode4 c).setWidth 4 = c := by
  simp [doutOfCode4]

@[simp] theorem code8_of_dout (c : Code8) : (doutOfCode8 c).setWidth 8 = c := by
  simp [doutOfCode8]

/-- The code split of R129 undoes the code assembly of R128. -/
@[simp] theorem adpcmCodeNeg_code (neg : Bool) (d : BitVec 3) : adpcmCodeNeg (adpcmCode neg d) = neg := by
  cases neg <;> revert d <;> decide

@[simp] theorem adpcmCodeDelta_code (neg : Bool) (d : BitVec 3) : adpcmCodeDelta (adpcmCode neg d) = d := by
  cases neg <;> revert d <;> decide

end Sys2Proof.Machine
end

