-- ==== Sys2Proof/Laws/PerInstr.lean ====
section
/-! SUPPORT. A statement about each command as syntax: the word the encoder gives it is canonical (R66), with the command's
op value (R64), and its operand is read back from that word. One lemma per constructor. -/

namespace Sys2Proof.Laws.CanonicalEncoding

open Sys2Proof.Machine

/-- The encoder's word for a command has its op value and no ignored bit set (R64, R66). -/
def Statement (i : Instr) : Prop :=
  CmdWord.op (encode i) = i.op ∧ CmdWord.canonical (encode i) = true

/-- A zero-extended code has no bit above its width. -/
theorem code8_masked (c : Code8) : (c.setWidth 16) &&& 0xFF00#16 = 0#16 := by revert c; decide

theorem code4_masked (c : Code4) : (c.setWidth 16) &&& 0xFFF0#16 = 0#16 := by revert c; decide

theorem alawEnc (x : Sample) : Statement (.alawEnc x) :=
  ⟨by simp, by simp [canonical_eq, Instr.op, Instr.din, ignoredMask]⟩

theorem alawDec (c : Code8) : Statement (.alawDec c) :=
  ⟨by simp, by simp only [canonical_eq, op_encode, din_encode, Instr.op, Instr.din, ignoredMask]; simpa using code8_masked c⟩

theorem ulawEnc (x : Sample) : Statement (.ulawEnc x) :=
  ⟨by simp, by simp [canonical_eq, Instr.op, Instr.din, ignoredMask]⟩

theorem ulawDec (c : Code8) : Statement (.ulawDec c) :=
  ⟨by simp, by simp only [canonical_eq, op_encode, din_encode, Instr.op, Instr.din, ignoredMask]; simpa using code8_masked c⟩

theorem adpcmEnc (x : Sample) : Statement (.adpcmEnc x) :=
  ⟨by simp, by simp [canonical_eq, Instr.op, Instr.din, ignoredMask]⟩

theorem adpcmDec (c : Code4) : Statement (.adpcmDec c) :=
  ⟨by simp, by simp only [canonical_eq, op_encode, din_encode, Instr.op, Instr.din, ignoredMask]; simpa using code4_masked c⟩

theorem reservedOp110 : Statement .reservedOp110 := ⟨by decide, by decide⟩

theorem reservedOp111 : Statement .reservedOp111 := ⟨by decide, by decide⟩

end Sys2Proof.Laws.CanonicalEncoding
end

