-- ==== Sys2Proof/Laws/Stages.lean ====
section
/-! SUPPORT. The ranges the rules state for the stages of the three units: no table read, field or result leaves the range
that its rule gives it. -/

namespace Sys2Proof.Machine

theorem clamp_bounds (v lo hi : Int) (h : lo ≤ hi) : lo ≤ clamp v lo hi ∧ clamp v lo hi ≤ hi := by
  simp only [clamp]; omega

theorem clippedMagnitude_le (m : NegMag) (scale : Nat) (x : Int) : clippedMagnitude m scale x ≤ 32767 :=
  Nat.min_le_right _ _

/-- M is 0..2047 (R81). -/
theorem alawMagnitude_lt (m : NegMag) (x : Int) : alawMagnitude m x < 2048 := by
  have := clippedMagnitude_le m 8 x
  simp only [alawMagnitude, Nat.shiftRight_eq_div_pow]
  omega

/-- m14 is 0..8191 (R101). -/
theorem ulawMagnitude_lt (m : NegMag) (x : Int) : ulawMagnitude m x < 8192 := by
  have := clippedMagnitude_le m 4 x
  simp only [ulawMagnitude, Nat.shiftRight_eq_div_pow]
  omega

/-- B is 33..8191 (R102). -/
theorem ulawBias_bounds (m14 : Nat) : 33 ≤ ulawBias m14 ∧ ulawBias m14 ≤ 8191 := by
  simp only [ulawBias]; omega

/-- The A-law segment is 0..7 (R82). -/
theorem alawSegment_lt (M : Nat) (h : M < 2048) : alawSegment M < 8 := by
  unfold alawSegment msbIndex
  split
  · omega
  · have := (Nat.log2_lt (n := M) (k := 11) (by omega)).2 (by omega)
    omega

/-- The mu-law segment is 0..7 (R103). -/
theorem ulawSegment_lt (B : Nat) (h1 : 33 ≤ B) (h2 : B ≤ 8191) : ulawSegment B < 8 := by
  unfold ulawSegment msbIndex
  have := (Nat.log2_lt (n := B) (k := 13) (by omega)).2 (by omega)
  omega

/-- The new step index is 0..88 (R127). -/
theorem adpcmNextIndex_le (base : Nat) (d : BitVec 3) : adpcmNextIndex base d ≤ 88 := by
  have := clamp_bounds ((base : Int) + romAdj d) 0 88 (by omega)
  unfold adpcmNextIndex
  omega

/-- The new predictor is a 16-bit signed integer (R126), so `bits_16` of it never wraps. -/
theorem adpcmPredict_bounds (pred : Int) (neg : Bool) (diffq : Nat) :
    -32768 ≤ adpcmPredict pred neg diffq ∧ adpcmPredict pred neg diffq ≤ 32767 :=
  clamp_bounds _ _ _ (by omega)

end Sys2Proof.Machine
end

