-- ==== Sys2Proof/Laws/State.lean ====
section
/-! SUPPORT. One lemma per field per update of the state, true by definition, so that no proof unfolds a record update. -/

namespace Sys2Proof.Machine

@[simp] theorem present_params (c : CmdWord) (s : State) : (present c s).params = s.params := rfl
@[simp] theorem present_cmd (c : CmdWord) (s : State) : (present c s).cmd = c := rfl
@[simp] theorem present_stIn (c : CmdWord) (s : State) : (present c s).stIn = s.st := rfl
@[simp] theorem present_prog (c : CmdWord) (s : State) : (present c s).prog = s.prog := rfl
@[simp] theorem present_k (c : CmdWord) (s : State) : (present c s).k = s.k := rfl
@[simp] theorem present_st (c : CmdWord) (s : State) : (present c s).st = s.st := rfl
@[simp] theorem present_out (c : CmdWord) (s : State) : (present c s).out = s.out := rfl
@[simp] theorem present_refused (c : CmdWord) (s : State) : (present c s).refused = s.refused := rfl

@[simp] theorem complete_params (d : Dout) (st : StWord) (s : State) : (complete d st s).params = s.params := rfl
@[simp] theorem complete_cmd (d : Dout) (st : StWord) (s : State) : (complete d st s).cmd = s.cmd := rfl
@[simp] theorem complete_stIn (d : Dout) (st : StWord) (s : State) : (complete d st s).stIn = s.stIn := rfl
@[simp] theorem complete_prog (d : Dout) (st : StWord) (s : State) : (complete d st s).prog = s.prog := rfl
@[simp] theorem complete_k (d : Dout) (st : StWord) (s : State) : (complete d st s).k = s.k + 1 := rfl
@[simp] theorem complete_st (d : Dout) (st : StWord) (s : State) : (complete d st s).st = st := rfl
@[simp] theorem complete_out (d : Dout) (st : StWord) (s : State) : (complete d st s).out = s.out ++ [d] := rfl
@[simp] theorem complete_refused (d : Dout) (st : StWord) (s : State) : (complete d st s).refused = s.refused := rfl

@[simp] theorem refuse_params (s : State) : (refuse s).params = s.params := rfl
@[simp] theorem refuse_cmd (s : State) : (refuse s).cmd = s.cmd := rfl
@[simp] theorem refuse_stIn (s : State) : (refuse s).stIn = s.stIn := rfl
@[simp] theorem refuse_prog (s : State) : (refuse s).prog = s.prog := rfl
@[simp] theorem refuse_k (s : State) : (refuse s).k = s.k := rfl
@[simp] theorem refuse_st (s : State) : (refuse s).st = s.st := rfl
@[simp] theorem refuse_out (s : State) : (refuse s).out = s.out := rfl
@[simp] theorem refuse_refused (s : State) : (refuse s).refused = true := rfl

@[simp] theorem setStream_params (p : BitVec 16) (i : BitVec 8) (s : State) : (setStream p i s).params = s.params := rfl
@[simp] theorem setStream_cmd (p : BitVec 16) (i : BitVec 8) (s : State) : (setStream p i s).cmd = s.cmd := rfl
@[simp] theorem setStream_stIn (p : BitVec 16) (i : BitVec 8) (s : State) : (setStream p i s).stIn = s.stIn := rfl
@[simp] theorem setStream_prog (p : BitVec 16) (i : BitVec 8) (s : State) : (setStream p i s).prog = s.prog := rfl
@[simp] theorem setStream_k (p : BitVec 16) (i : BitVec 8) (s : State) : (setStream p i s).k = s.k + 1 := rfl
@[simp] theorem setStream_st (p : BitVec 16) (i : BitVec 8) (s : State) : (setStream p i s).st = packSt p i := rfl
@[simp] theorem setStream_out (p : BitVec 16) (i : BitVec 8) (s : State) : (setStream p i s).out = s.out := rfl
@[simp] theorem setStream_refused (p : BitVec 16) (i : BitVec 8) (s : State) : (setStream p i s).refused = s.refused := rfl

@[simp] theorem start_params (p : Config) (prog : List Item) (st : StWord) : (State.start p prog st).params = p := rfl
@[simp] theorem start_cmd (p : Config) (prog : List Item) (st : StWord) : (State.start p prog st).cmd = 0#19 := rfl
@[simp] theorem start_stIn (p : Config) (prog : List Item) (st : StWord) : (State.start p prog st).stIn = 0#24 := rfl
@[simp] theorem start_prog (p : Config) (prog : List Item) (st : StWord) : (State.start p prog st).prog = prog := rfl
@[simp] theorem start_k (p : Config) (prog : List Item) (st : StWord) : (State.start p prog st).k = 0 := rfl
@[simp] theorem start_st (p : Config) (prog : List Item) (st : StWord) : (State.start p prog st).st = st := rfl
@[simp] theorem start_out (p : Config) (prog : List Item) (st : StWord) : (State.start p prog st).out = [] := rfl
@[simp] theorem start_refused (p : Config) (prog : List Item) (st : StWord) : (State.start p prog st).refused = false := rfl

@[simp] theorem withNInst_params (n : Nat) (s : State) : (s.withNInst n).params = { s.params with nInst := n } := rfl
@[simp] theorem withNInst_cmd (n : Nat) (s : State) : (s.withNInst n).cmd = s.cmd := rfl
@[simp] theorem withNInst_stIn (n : Nat) (s : State) : (s.withNInst n).stIn = s.stIn := rfl
@[simp] theorem withNInst_prog (n : Nat) (s : State) : (s.withNInst n).prog = s.prog := rfl
@[simp] theorem withNInst_k (n : Nat) (s : State) : (s.withNInst n).k = s.k := rfl
@[simp] theorem withNInst_st (n : Nat) (s : State) : (s.withNInst n).st = s.st := rfl
@[simp] theorem withNInst_out (n : Nat) (s : State) : (s.withNInst n).out = s.out := rfl
@[simp] theorem withNInst_refused (n : Nat) (s : State) : (s.withNInst n).refused = s.refused := rfl

@[simp] theorem withFetchWord_params (s : State) (nbits w : Nat) :
    (s.withFetchWord nbits w).params = s.params := rfl
@[simp] theorem withFetchWord_cmd (s : State) (nbits w : Nat) :
    (s.withFetchWord nbits w).cmd = s.cmd := rfl
@[simp] theorem withFetchWord_stIn (s : State) (nbits w : Nat) :
    (s.withFetchWord nbits w).stIn = s.stIn := rfl
@[simp] theorem withFetchWord_prog (s : State) (nbits w : Nat) :
    (s.withFetchWord nbits w).prog = placeItem s.prog s.k (.cmd (tableWord nbits w)) := rfl
@[simp] theorem withFetchWord_k (s : State) (nbits w : Nat) :
    (s.withFetchWord nbits w).k = s.k := rfl
@[simp] theorem withFetchWord_st (s : State) (nbits w : Nat) :
    (s.withFetchWord nbits w).st = s.st := rfl
@[simp] theorem withFetchWord_out (s : State) (nbits w : Nat) :
    (s.withFetchWord nbits w).out = s.out := rfl
@[simp] theorem withFetchWord_refused (s : State) (nbits w : Nat) :
    (s.withFetchWord nbits w).refused = false := rfl

@[simp] theorem onCore_params (p : Config) (s : State) : (s.onCore p).params = p := rfl
@[simp] theorem onCore_cmd (p : Config) (s : State) : (s.onCore p).cmd = s.cmd := rfl
@[simp] theorem onCore_stIn (p : Config) (s : State) : (s.onCore p).stIn = s.stIn := rfl
@[simp] theorem onCore_prog (p : Config) (s : State) : (s.onCore p).prog = s.prog := rfl
@[simp] theorem onCore_k (p : Config) (s : State) : (s.onCore p).k = s.k := rfl
@[simp] theorem onCore_st (p : Config) (s : State) : (s.onCore p).st = s.st := rfl
@[simp] theorem onCore_out (p : Config) (s : State) : (s.onCore p).out = s.out := rfl
@[simp] theorem onCore_refused (p : Config) (s : State) : (s.onCore p).refused = s.refused := rfl

end Sys2Proof.Machine
end

