-- ==== Sys2Proof/Laws/Step.lean ====
section
/-! SUPPORT. What a transaction, an instruction and a step can do, each said once; later proofs cite these. -/

namespace Sys2Proof.Machine

/-- `exec` is the harness taking the core's outcome on the stream state (R24, R33): one lemma for the eight meanings. -/
theorem exec_eq_settle (i : Instr) (s : State) : exec i s = settle (transact s.params i s.st) s := by
  cases i <;> rfl

@[simp] theorem settle_ok (d : Dout) (st : StWord) (s : State) : settle (.ok d st) s = .next (complete d st s) := rfl

@[simp] theorem settle_refused (r : RefusedReason) (s : State) : settle (.refused r) s = .next (refuse s) := rfl

/-- Everything taking an outcome can do. -/
theorem settle_cases (o : PortOutcome) (s t : State) (h : settle o s = .next t) :
    (∃ d st, o = .ok d st ∧ t = complete d st s) ∨ (∃ r, o = .refused r ∧ t = refuse s) := by
  cases o with
  | ok d st => exact .inl ⟨d, st, rfl, by simpa using h.symm⟩
  | refused r => exact .inr ⟨r, rfl, by simpa using h.symm⟩

theorem step_of_refused (s : State) (h : s.refused = true) : step s = .fault .runRefused := by
  simp [step, h]

theorem step_of_none (s : State) (hr : s.refused = false) (h : fetchItem s = none) : step s = .fault .runEnded := by
  simp [step, hr, h]

theorem step_of_state (s : State) (p : BitVec 16) (i : BitVec 8) (hr : s.refused = false)
    (h : fetchItem s = some (.state p i)) : step s = .next (setStream p i s) := by
  simp [step, hr, h]

theorem step_of_cmd (s : State) (c : CmdWord) (hr : s.refused = false) (h : fetchItem s = some (.cmd c)) :
    step s = settle (transact s.params (decode c) s.st) (present c s) := by
  simp [step, hr, h, exec_eq_settle]

/-- Everything a step that answers a next state can be: a directive, a completed transaction, or a refusal. -/
theorem step_cases (s t : State) (h : step s = .next t) :
    s.refused = false ∧
    ((∃ p i, fetchItem s = some (.state p i) ∧ t = setStream p i s) ∨
     (∃ c d st, fetchItem s = some (.cmd c) ∧ transact s.params (decode c) s.st = .ok d st ∧
        t = complete d st (present c s)) ∨
     (∃ c r, fetchItem s = some (.cmd c) ∧ transact s.params (decode c) s.st = .refused r ∧
        t = refuse (present c s))) := by
  cases hr : s.refused with
  | true => rw [step_of_refused s hr] at h; cases h
  | false =>
    refine ⟨rfl, ?_⟩
    cases hf : fetchItem s with
    | none => rw [step_of_none s hr hf] at h; cases h
    | some item =>
      cases item with
      | state p i =>
        rw [step_of_state s p i hr hf] at h
        exact .inl ⟨p, i, rfl, by simpa using h.symm⟩
      | cmd c =>
        rw [step_of_cmd s c hr hf] at h
        rcases settle_cases _ _ _ h with ⟨d, st, ho, ht⟩ | ⟨r, ho, ht⟩
        · exact .inr (.inl ⟨c, d, st, rfl, ho, ht⟩)
        · exact .inr (.inr ⟨c, r, rfl, ho, ht⟩)

/-- A placed item is the one the next step fetches. -/
theorem placeItem_get (prog : List Item) (k : Nat) (item : Item) : (placeItem prog k item)[k]? = some item := by
  have hlen : (prog.take k ++ List.replicate (k - prog.length) (Item.cmd 0#19)).length = k := by
    simp only [List.length_append, List.length_take, List.length_replicate]; omega
  unfold placeItem
  rw [List.getElem?_append_right (by omega), hlen]
  simp

/-- One more item passed is that item counted. -/
theorem commandCount_append (l : List Item) (x : Item) : commandCount (l ++ [x]) = commandCount l + commandCount [x] := by
  induction l with
  | nil => simp [commandCount]
  | cons a l ih => cases a <;> simp [commandCount, ih]; omega

end Sys2Proof.Machine
end

