-- ==== Sys2Proof/Laws/System.lean ====
section
/-! SUPPORT. What a step of a stream in a system can do, said once. -/

namespace Sys2Proof.Machine

/-- A step of a stream that answers a next system is the harness step on the core's parameters, put back in its place. -/
theorem stepStream_next (y z : System) (c j : Nat) (h : y.stepStream c j = some (.next z)) :
    ∃ p s t, y.cores[c]? = some p ∧ y.streams[j]? = some s ∧ step (s.onCore p) = .next t ∧
      z = { y with streams := y.streams.set j t } := by
  unfold System.stepStream at h
  cases hc : y.cores[c]? with
  | none => simp [hc] at h
  | some p =>
    cases hs : y.streams[j]? with
    | none => simp [hc, hs] at h
    | some s =>
      simp only [hc, hs] at h
      cases ht : step (s.onCore p) <;> simp [ht] at h
      exact ⟨p, s, _, rfl, rfl, ht, h.symm⟩

/-- A step of a stream that stops stops by its harness. -/
theorem stepStream_fault (y : System) (c j : Nat) (f : Fault) (h : y.stepStream c j = some (.fault f)) :
    ∃ p s, y.cores[c]? = some p ∧ y.streams[j]? = some s ∧ step (s.onCore p) = .fault f := by
  unfold System.stepStream at h
  cases hc : y.cores[c]? with
  | none => simp [hc] at h
  | some p =>
    cases hs : y.streams[j]? with
    | none => simp [hc, hs] at h
    | some s =>
      simp only [hc, hs] at h
      cases ht : step (s.onCore p) <;> simp [ht] at h
      exact ⟨p, s, rfl, rfl, by rw [ht, h]⟩

/-- A step depends on the system only through its core's parameters and its own stream. -/
theorem stepStream_of_get (y : System) (c j : Nat) (p : Config) (s : State)
    (hc : y.cores[c]? = some p) (hs : y.streams[j]? = some s) :
    y.stepStream c j = match step (s.onCore p) with
      | .next t => some (.next { y with streams := y.streams.set j t })
      | .fault f => some (.fault f)
      | .refused r => some (.refused r) := by
  cases ht : step (s.onCore p) <;> simp [System.stepStream, hc, hs, ht]

end Sys2Proof.Machine
end

