-- ==== Sys2Proof/Tests/Slice0.lean ====
section
/-! SUPPORT. Small tests. Every expected value is the spec's own: the vectors of 95_test_vectors.md (the section is named), the
worked encodings of R72, or the corner cases of the operations' rules; and a witness for each statement with hypotheses. -/

namespace Sys2Proof.Tests

open Sys2Proof.Machine

/-! ### Helpers -/

/-- A harness with one stream state and these parameters, about to run. -/
def small (n : NegMag) (x : IdxOor) (st : StWord) : State := State.start { negMag := n, idxOor := x, nInst := 1 } [] st

/-- The harness at reset with another stream state. -/
def at0 (st : StWord) : State := State.start Config.default [] st

/-- The DOUT an outcome appended last, with the stream state it left. -/
def result (o : Host.Outcome State Fault Refusal) : Option (Dout × StWord) :=
  match o with
  | .next t => t.out.getLast?.map fun d => (d, t.st)
  | _ => none

/-- Whether an outcome is a state that is refused. -/
def isRefused (o : Host.Outcome State Fault Refusal) : Bool :=
  match o with
  | .next t => t.refused && t.out.isEmpty
  | _ => false

/-! ### The checks of WellFormed.lean refuse an ill-formed term -/

theorem test_config_no_core_refused : Config.wellFormed { negMag := .absolute, idxOor := .rawSum, nInst := 0 } = false := by decide
theorem test_config_default_ok : Config.default.wellFormed = true := by decide
theorem test_word_ignored_bits_not_canonical : CmdWord.canonical 0x1FFD5#19 = false ∧ CmdWord.canonical 0x5FFF7#19 = false := by decide
theorem test_word_reserved_din_not_canonical : CmdWord.canonical 0x6ABCD#19 = false := by decide
theorem test_word_canonical : CmdWord.canonical 0x100D5#19 = true ∧ CmdWord.canonical 0x0FFFF#19 = true := by decide
theorem test_st_index_89_not_legal : StWord.legal 0x000059#24 = false := by decide
theorem test_sample_literal_refused : Literal.isSample (.dec 32768) = false ∧ Literal.isSample (.hex 0x10000) = false := by decide
theorem test_code_literal_refused : (Literal.dec 256).isUpTo 255 = false ∧ (Literal.dec (-1)).isUpTo 255 = false := by decide
theorem test_operand_range_refused : Mnemonic.operandOk .adpcmDec (.dec 16) = false := by decide
theorem test_src_item_refused :
    SrcItem.wellFormed (.rawWord 0x80000) = false ∧ SrcItem.wellFormed (.state (.dec 0) (.dec 256)) = false := by decide

/-! ### Decoding: words written out from the encodings of R64 (op in bits 18:16) -/

theorem test_decode_alawEnc : decode 0b0000000001111101000#19 = .alawEnc 1000#16 := by decide
theorem test_decode_alawDec : decode 0b0010000000011111010#19 = .alawDec 0xFA#8 := by decide
theorem test_decode_ulawEnc : decode 0b0100000001111101000#19 = .ulawEnc 1000#16 := by decide
theorem test_decode_ulawDec : decode 0b0110000000011001110#19 = .ulawDec 0xCE#8 := by decide
theorem test_decode_adpcmEnc : decode 0b1000000000000011001#19 = .adpcmEnc 25#16 := by decide
theorem test_decode_adpcmDec : decode 0b1010000000000000111#19 = .adpcmDec 7#4 := by decide
theorem test_decode_reserved110 : decode 0b1101010101111001101#19 = .reservedOp110 := by decide
theorem test_decode_reserved111 : decode 0b1111111111111111111#19 = .reservedOp111 := by decide
theorem test_decode_ignores_bits : decode 0x1FFD5#19 = decode 0x100D5#19 := by decide
theorem test_encode_words : encode (.adpcmDec 15#4) = 0x5000F#19 ∧ encode (.ulawEnc 0x8000#16) = 0x28000#19 := by decide
theorem test_decodeTableWord : decodeTableWord 24 0x3007F = some (.ulawDec 0x7F#8) := by decide

/-! ### The operations (95_test_vectors.md, sections 2.1 to 2.4) -/

theorem test_alawEnc_one_complement : result (exec (.alawEnc 0xFFF0#16) (at0 0xFFFBC8#24)) = some (0x0055#16, 0xFFFBC8#24) := by decide
theorem test_alawEnc_other_readings :
    result (exec (.alawEnc 0xFFF7#16) (small .absolute .clampFirst 0#24)) = some (0x0055#16, 0#24) ∧
    result (exec (.alawEnc 0xFFF7#16) (small .shiftThenNegate .clampFirst 0#24)) = some (0x0054#16, 0#24) := by decide
theorem test_alawDec_segment : result (exec (.alawDec 0xFA#8) (at0 0#24)) = some (0x03F0#16, 0#24) := by decide
theorem test_alawDec_extreme : result (exec (.alawDec 0x2A#8) (at0 0#24)) = some (0x8200#16, 0#24) := by decide
theorem test_ulawEnc_example : result (exec (.ulawEnc 1000#16) (at0 0#24)) = some (0x00CE#16, 0#24) := by decide
theorem test_ulawEnc_readings :
    result (exec (.ulawEnc 0xFFFF#16) (at0 0#24)) = some (0x007F#16, 0#24) ∧
    result (exec (.ulawEnc 0xFFFF#16) (small .shiftThenNegate .clampFirst 0#24)) = some (0x007E#16, 0#24) := by decide
theorem test_ulawDec_example : result (exec (.ulawDec 0xCE#8) (at0 0#24)) = some (0x03DC#16, 0#24) := by decide
theorem test_ulawDec_negative_zero : result (exec (.ulawDec 0x7F#8) (at0 0#24)) = some (0x0000#16, 0#24) := by decide
theorem test_adpcmEnc_wide_difference :
    result (exec (.adpcmEnc 0x8000#16) (at0 0x7FFF58#24)) = some (0x000F#16, 0x900358#24) := by decide
theorem test_adpcmEnc_code_eight : result (exec (.adpcmEnc 0xFFFF#16) (at0 0x000001#24)) = some (0x0008#16, 0xFFFF00#24) := by decide
theorem test_adpcmDec_saturates : result (exec (.adpcmDec 15#4) (at0 0x830058#24)) = some (0x8000#16, 0x800058#24) := by decide
theorem test_adpcmDec_index_above_88 :
    result (exec (.adpcmDec 11#4) (at0 0x000059#24)) = some (0x9003#16, 0x900357#24) ∧
    result (exec (.adpcmDec 11#4) (small .onesComplement .rawSum 0x000059#24)) = some (0x9003#16, 0x900358#24) := by decide
theorem test_reserved110_refused : isRefused (exec .reservedOp110 (at0 0#24)) = true := by decide
theorem test_reserved111_refused : isRefused (exec .reservedOp111 (at0 0#24)) = true := by decide

/-! ### The harness (95_test_vectors.md, programs P3 and P5, item by item) and the machine -/

/-- Program P5 before its second item. -/
def p5 : State := { at0 0x000B08#24 with prog := [.cmd 0x40064#19, .cmd 0x60000#19, .cmd 0x00000#19], k := 1, out := [7#16] }

theorem test_p5_refusal :
    step p5 = .next { p5 with cmd := 0x60000#19, stIn := 0x000B08#24, refused := true } := by rfl
theorem test_p5_outcome_records_op :
    State.outputs { p5 with cmd := 0x60000#19, stIn := 0x000B08#24, refused := true } = .refused (.reservedOp 0b110#3) := by decide
theorem test_directive_sets_stream :
    step { at0 0#24 with prog := [.state 0xFFFB#16 200#8] } =
      .next { at0 0xFFFBC8#24 with prog := [.state 0xFFFB#16 200#8], k := 1 } := by rfl
theorem test_step_runs_placed_word : result (step (State.reset.withFetchWord 24 0x1FFD5)) = some (0x0008#16, 0#24) := by decide
theorem test_no_step_at_reset : step State.reset = .fault .runEnded := by rfl
theorem test_rom_entries : romStep 16 = 34 ∧ romStep 44 = 494 ∧ romStep 88 = 32767 ∧ romAdj 7#3 = 8 := by decide

/-! ### The assembler and the disassembler (R68, R69, R72) -/

theorem test_assemble_state : assemble ".state -5, 200 ; start".toList = .ok [.state 0xFFFB#16 200#8] := by rfl
theorem test_assemble_any_case : assemble "ALAW.enc 0xFFFF".toList = .ok [.cmd 0x0FFFF#19] := by rfl
theorem test_assemble_refuses_by_line : assemble "alaw.enc 0\nadpcm.dec 16".toList = .error (2, .outOfRange) := by rfl
theorem test_disassemble : disassemble 0x1FFD5#19 = "ALAW.DEC 0xD5 ; ignored bits 0xFFD5".toList := by rfl

/-! ### Witnesses: states and operands that meet the hypotheses of the statements -/

/-- A harness about to run ADPCM.DEC 7 from the default state. -/
def runningDec : State := { at0 0#24 with prog := [.cmd 0x50007#19] }

theorem witness_StepRunsDecodedCommand : runningDec.refused = false ∧ runningDec.prog[runningDec.k]? = some (.cmd 0x50007#19) := by decide
theorem witness_IgnoredBitsNeverMatter :
    reservedOp (CmdWord.op 0x1FFD5#19) = false ∧ CmdWord.op 0x1FFD5#19 = CmdWord.op 0x100D5#19 ∧
    CmdWord.din 0x1FFD5#19 &&& ~~~(ignoredMask (CmdWord.op 0x1FFD5#19)) =
      CmdWord.din 0x100D5#19 &&& ~~~(ignoredMask (CmdWord.op 0x1FFD5#19)) := by decide
theorem witness_DecodeEncodeRoundTrip : decode 0x100D5#19 = .alawDec 0xD5#8 ∧ CmdWord.canonical 0x100D5#19 = true := by decide
theorem witness_AssemblerWritesCanonicalWords_sample :
    (-32768 : Int) ≤ -32768 ∧ (-32768 : Int) ≤ 32767 ∧ (-32769 : Int) < -32768 ∧
    assembleItem (.command .ulawEnc (.dec (-32768))) = .ok (.cmd 0x28000#19) ∧
    assembleItem (.command .ulawEnc (.hex 0x10000)) = .error .outOfRange :=
  ⟨by decide, by decide, by decide, rfl, rfl⟩
theorem witness_AssemblerWritesCanonicalWords_code :
    (0 : Int) ≤ 15 ∧ (15 : Int) ≤ 15 ∧ (15 : Int) < 16 ∧
    assembleItem (.command .adpcmDec (.dec 15)) = .ok (.cmd 0x5000F#19) ∧
    assembleItem (.command .adpcmDec (.dec 16)) = .error .outOfRange :=
  ⟨by decide, by decide, by decide, rfl, rfl⟩
theorem witness_AssemblerWritesCanonicalWords_raw : 524287 < 524288 ∧ assembleItem (.rawWord 0x7FFFF) = .ok (.cmd 0x7FFFF#19) ∧
    assembleItem (.rawWord 0x80000) = .error .outOfRange := ⟨by decide, rfl, rfl⟩
theorem witness_OutcomeDependsOnOpAlone :
    reservedOp (CmdWord.op 0x5FFFF#19) = false ∧ reservedOp (CmdWord.op 0x60000#19) = true := by decide
theorem witness_ReservedOpEndsRunRefused :
    p5.refused = false ∧ p5.prog[p5.k]? = some (.cmd 0x60000#19) ∧ reservedOp (CmdWord.op 0x60000#19) = true := by decide
/-- The same command and stream state in a harness that differs in everything else. -/
def otherDec : State := { runningDec with cmd := 5#19, stIn := 9#24, prog := [.state 0#16 0#8, .cmd 0x50007#19], k := 1, out := [1#16] }
theorem witness_ResultsDependOnInputsAlone :
    runningDec.params = otherDec.params ∧ runningDec.st = otherDec.st ∧ runningDec.refused = false ∧ otherDec.refused = false ∧
    runningDec.prog[runningDec.k]? = some (.cmd 0x50007#19) ∧ otherDec.prog[otherDec.k]? = some (.cmd 0x50007#19) := by decide
theorem witness_HarnessStep_refused : ({ p5 with refused := true } : State).refused = true := by decide
theorem witness_HarnessStep_ended : State.reset.refused = false ∧ State.reset.k = State.reset.prog.length := by decide
theorem witness_HarnessStep_ok : coreTransaction Config.default 0x50007#19 0#24 = .ok 0x000B#16 0x000B08#24 := by decide
theorem witness_HarnessStep_refusal : coreTransaction Config.default 0x7FFFF#19 0#24 = .refused (.reservedOp 0b111#3) := by decide
theorem witness_StateDirectiveSetsStream :
    (Literal.dec (-32768)).isSample = true ∧ (Literal.hex 0xFF).isUpTo 255 = true ∧
    assembleItem (.state (.dec (-32768)) (.hex 0xFF)) = .ok (.state 0x8000#16 255#8) ∧
    ({ at0 0#24 with prog := [.state 0x8000#16 255#8] } : State).refused = false ∧
    ({ at0 0#24 with prog := [.state 0x8000#16 255#8] } : State).prog[0]? = some (.state 0x8000#16 255#8) := by
  refine ⟨by decide, by decide, by rfl, by decide, by decide⟩
theorem witness_StepFrame_completes : step runningDec =
    .next { runningDec with cmd := 0x50007#19, out := [0x000B#16], st := 0x000B08#24, k := 1 } := by rfl
theorem witness_StepFrame_refused : ∃ t, step p5 = .next t ∧ t.refused = true := ⟨_, test_p5_refusal, rfl⟩
theorem witness_EveryRunEnds : runningDec.k ≤ runningDec.prog.length := by decide
theorem witness_HarnessInv : runningDec.HarnessInv ∧ ∃ t, step runningDec = .next t :=
  ⟨⟨by decide, by decide, by simp [runningDec, at0]⟩, _, witness_StepFrame_completes⟩
theorem witness_StreamInv : runningDec.StreamInv ∧ ∃ t, step runningDec = .next t :=
  ⟨⟨by decide, by simp [runningDec, at0]⟩, _, witness_StepFrame_completes⟩
theorem witness_HarnessRunThreadsStream : ∀ i ∈ [Instr.adpcmEnc 25#16, .alawDec 0#8], reservedOp i.op = false := by decide
theorem witness_ExecFrame : ∃ t, exec (.alawDec 0xFA#8) (at0 0#24) = .next t := ⟨_, rfl⟩
theorem witness_ExecFrame_reserved : (∃ t, exec .reservedOp111 (at0 0#24) = .next t) ∧ reservedOp (Instr.op .reservedOp111) = true :=
  ⟨⟨_, rfl⟩, by decide⟩
theorem witness_G711PassesStateThrough : ∃ c, Instr.alawDec 0#8 = .alawDec c := ⟨_, rfl⟩
/-- One core with two streams: the first about to decode, the second at its end. -/
def oneCore : System := { cores := [Config.default], streams := [runningDec, State.reset, runningDec] }
/-- Two cores and two streams. -/
def twoCores : System :=
  { cores := List.replicate 2 { Config.default with nInst := 2 },
    streams := List.replicate 2 (runningDec.withNInst 2) }
theorem test_one_core_two_streams : oneCore.wellFormed = true ∧ twoCores.wellFormed = true := by decide
theorem test_system_ill_formed : System.wellFormed { cores := [], streams := [] } = false ∧
    System.wellFormed { cores := [Config.default, { Config.default with idxOor := .rawSum }], streams := [] } = false := by decide
theorem witness_CoresDoNotInterfere_one_core : (0 : Nat) ≠ 2 ∧ (∃ y, oneCore.stepStream 0 0 = some (.next y)) ∧
    (∃ y, oneCore.stepStream 0 2 = some (.next y)) ∧ oneCore.stepStream 0 1 = some (.fault .runEnded) :=
  ⟨by decide, ⟨_, rfl⟩, ⟨_, rfl⟩, rfl⟩
theorem witness_CoresDoNotInterfere_two_cores : (0 : Nat) ≠ 1 ∧ (∃ y, twoCores.stepStream 0 0 = some (.next y)) ∧
    ∃ y, twoCores.stepStream 1 1 = some (.next y) :=
  ⟨by decide, ⟨_, rfl⟩, ⟨_, rfl⟩⟩
theorem witness_EveryCoreGivesTheSameStep : twoCores.wellFormed = true ∧ 0 < twoCores.cores.length ∧ 1 < twoCores.cores.length ∧
    twoCores.streams[1]? = some (runningDec.withNInst 2) ∧ ∃ t, step (runningDec.withNInst 2) = .next t :=
  ⟨by decide, by decide, by decide, by decide, _, rfl⟩
theorem witness_EveryCoreGivesTheSameStep_fault : oneCore.wellFormed = true ∧ 0 < oneCore.cores.length ∧
    oneCore.streams[1]? = some State.reset ∧ step State.reset = .fault .runEnded :=
  ⟨by decide, by decide, by decide, rfl⟩
theorem witness_SystemStaysWellFormed : oneCore.wellFormed = true ∧ ∃ y, oneCore.stepStream 0 0 = some (.next y) :=
  ⟨by decide, _, rfl⟩
theorem witness_AlawEncResult_last_interval : alawL 7 15 ≤ 32767 ∧ 32767 < alawL 7 15 + alawW 7 := by decide
theorem witness_UlawEncResult_last_interval : ulawL 7 15 ≤ 32767 ∧ 32767 < ulawNextL 7 15 := by decide
theorem witness_AlawLaws_monotone : 0 ≤ (255#16).toInt ∧ (255#16).toInt ≤ (256#16).toInt := by decide
theorem witness_UlawLaws_code : (0x7E#8 : Code8) ≠ 0x7F#8 := by decide
theorem witness_NegMag_nonnegative : 0 ≤ (0#16).toInt := by decide
theorem witness_NegMag_negative : (0x8000#16 : Sample).toInt < 0 := by decide
theorem witness_EncoderDecoderSynchronised : transact Config.default (.adpcmEnc 25#16) 0#24 = .ok 7#16 0x000B08#24 := by decide
theorem witness_AdpcmStateBounds : ∀ i ∈ [Instr.adpcmEnc 25#16, .adpcmDec 7#4], (∃ x, i = .adpcmEnc x) ∨ ∃ c, i = .adpcmDec c := by
  simp
theorem witness_IndexOnlyDependence : StWord.legal 0x7FFF58#24 = true := by decide
theorem witness_OutOfRangeIndexParameter : StWord.legal 0x000059#24 = false ∧
    (small .absolute .clampFirst 0#24).params.idxOor = .clampFirst ∧ (small .absolute .rawSum 0#24).params.idxOor = .rawSum := by decide
theorem witness_WhenCodeEightOccurs : transact Config.default (.adpcmEnc 0xFFFF#16) 0x000001#24 = .ok 8#16 0xFFFF00#24 := by decide
theorem witness_WhenCodeEightOccurs_index_zero : transact Config.default (.adpcmEnc 0xFFFF#16) 0#24 = .ok 9#16 0xFFFF00#24 := by decide
theorem witness_WhenCodeEightOccurs_index_one : 1 ≤ (1#8).toNat := by decide
theorem witness_AdjTableValues : (3#3).toNat < 4 := by decide
theorem witness_StepTableProperties : (0 : Fin 89) < 88 ∧ 1 ≤ (7 : Fin 89).val ∧ (7 : Fin 89).val ≤ 7 := by decide
theorem witness_StepStopsOnlyAtRunEnd : runningDec.refused = false ∧ runningDec.k < runningDec.prog.length := by decide
theorem witness_AdpcmEncResult_threshold : quantizerQ (stepAt 0) 7#3 ≤ 25 ∧ quantizerQ (stepAt 88) 1#3 = 8191 := by decide

end Sys2Proof.Tests
end

section
/-! The parameters of an implementation: the reset defaults (R8, R9), that no step reads or writes `N_INST` (R10, R156), and that a
system stays a positive number of cores of one implementation (R10, R172). -/

namespace Sys2Proof.Machine

/-- Settles O24: the two values are the fields of `Config.default`, which is what `State.start` puts into the reset state. -/
theorem resetParametersAreDefaults : Obligations.ResetParametersAreDefaults := by
  unfold Obligations.ResetParametersAreDefaults
  exact ⟨rfl, rfl⟩

/-! ### `N_INST` is read by nothing -/

/-- No transaction reads `N_INST` (R10). -/
@[simp] theorem transact_nInst (p : Config) (n : Nat) (i : Instr) (st : StWord) :
    transact { p with nInst := n } i st = transact p i st := by
  cases i <;> rfl

@[simp] theorem fetchItem_withNInst (n : Nat) (s : State) : fetchItem (s.withNInst n) = fetchItem s := rfl

@[simp] theorem present_withNInst (n : Nat) (c : CmdWord) (s : State) :
    present c (s.withNInst n) = (present c s).withNInst n := rfl

@[simp] theorem complete_withNInst (n : Nat) (d : Dout) (st : StWord) (s : State) :
    complete d st (s.withNInst n) = (complete d st s).withNInst n := rfl

@[simp] theorem refuse_withNInst (n : Nat) (s : State) : refuse (s.withNInst n) = (refuse s).withNInst n := rfl

@[simp] theorem setStream_withNInst (n : Nat) (p : BitVec 16) (i : BitVec 8) (s : State) :
    setStream p i (s.withNInst n) = (setStream p i s).withNInst n := rfl

/-- The step of a command under another core count: the same outcome is taken, because the transaction is the same. -/
theorem step_withNInst_of_cmd (n : Nat) (s : State) (c : CmdWord) (hr : s.refused = false)
    (hf : fetchItem s = some (.cmd c)) :
    step (s.withNInst n) = settle (transact s.params (decode c) s.st) ((present c s).withNInst n) := by
  simp [step_of_cmd (s.withNInst n) c hr hf]

/-- Settles O30, by the cases of R33: a refused run, a run at its end, a directive, and a command. -/
theorem stepIgnoresCoreCount : Obligations.StepIgnoresCoreCount := by
  unfold Obligations.StepIgnoresCoreCount
  intro n s
  cases hr : s.refused with
  | true =>
    rw [step_of_refused s hr]
    exact step_of_refused (s.withNInst n) hr
  | false =>
    cases hf : fetchItem s with
    | none =>
      rw [step_of_none s hr hf]
      exact step_of_none (s.withNInst n) hr hf
    | some item =>
      cases item with
      | state p i =>
        rw [step_of_state s p i hr hf]
        exact step_of_state (s.withNInst n) p i hr hf
      | cmd c =>
        rw [step_of_cmd s c hr hf, step_withNInst_of_cmd n s c hr hf]
        cases transact s.params (decode c) s.st with
        | ok d st => simp
        | refused r => simp

/-! ### A system stays well formed -/

/-- No step writes the parameters (R172). -/
theorem step_params (s t : State) (h : step s = .next t) : t.params = s.params := by
  obtain ⟨-, ⟨p, i, -, rfl⟩ | ⟨c, d, st, -, -, rfl⟩ | ⟨c, r, -, -, rfl⟩⟩ := step_cases s t h
  · exact setStream_params p i s
  · simp only [complete_params, present_params]
  · simp only [refuse_params, present_params]

/-- A well-formed system has one implementation: parameters whose `N_INST` is the number of cores, and which every
core and every stream has. -/
theorem System.wellFormed_iff (y : System) :
    y.wellFormed = true ↔
      y.cores ≠ [] ∧ ∃ p : Config, p.nInst = y.cores.length ∧ (∀ q ∈ y.cores, q = p) ∧ ∀ s ∈ y.streams, s.params = p := by
  unfold System.wellFormed
  cases y.cores with
  | nil => simp
  | cons p rest =>
    constructor
    · intro h
      simp only [Bool.and_eq_true, decide_eq_true_eq, List.all_eq_true] at h
      obtain ⟨⟨hn, hrest⟩, hstreams⟩ := h
      exact ⟨List.cons_ne_nil p rest, p, hn, List.forall_mem_cons.2 ⟨rfl, hrest⟩, hstreams⟩
    · rintro ⟨-, p', hn, hcores, hstreams⟩
      obtain ⟨rfl, hrest⟩ := List.forall_mem_cons.1 hcores
      simp only [Bool.and_eq_true, decide_eq_true_eq, List.all_eq_true]
      exact ⟨⟨hn, hrest⟩, hstreams⟩

/-- The step leaves the cores alone, and the one stream it writes takes the parameters of the core it ran on. -/
theorem stepStream_keeps_wellFormed (y z : System) (c j : Nat) (hy : y.wellFormed = true)
    (h : y.stepStream c j = some (.next z)) : z.wellFormed = true := by
  obtain ⟨hne, p, hn, hcores, hstreams⟩ := (System.wellFormed_iff y).1 hy
  obtain ⟨q, s, t, hq, -, ht, rfl⟩ := stepStream_next y z c j h
  have htp : t.params = p := (step_params _ t ht).trans (hcores q (List.mem_of_getElem? hq))
  refine (System.wellFormed_iff _).2 ⟨hne, p, hn, hcores, fun u hu => ?_⟩
  obtain hu | rfl := List.mem_or_eq_of_mem_set hu
  · exact hstreams u hu
  · exact htp

/-- At reset every core and every stream has the default parameters with `N_INST` at `n` (R170). -/
theorem reset_wellFormed (n m : Nat) (hn : 0 < n) : (System.reset n m).wellFormed = true := by
  refine (System.wellFormed_iff _).2 ⟨?_, { Config.default with nInst := n }, ?_, ?_, ?_⟩
  · simp [System.reset, hn.ne']
  · simp [System.reset]
  · exact fun _ hq => List.eq_of_mem_replicate hq
  · exact fun _ hs => congrArg State.params (List.eq_of_mem_replicate hs)

/-- Settles O33: every step keeps the invariant, and reset meets it. -/
theorem systemStaysWellFormed : Obligations.SystemStaysWellFormed := by
  unfold Obligations.SystemStaysWellFormed
  exact ⟨stepStream_keeps_wellFormed, reset_wellFormed⟩

end Sys2Proof.Machine
end

section
/-! The outcome of a transaction by its command: what a reserved op does and what every other op does (R28, R65, R150,
R151), and that the decoder and the encoder agree on the op value and the operand (R64, R66). -/

namespace Sys2Proof.Machine

theorem op_cases (o : OpField) :
    o = 0b000#3 ∨ o = 0b001#3 ∨ o = 0b010#3 ∨ o = 0b011#3 ∨
    o = 0b100#3 ∨ o = 0b101#3 ∨ o = 0b110#3 ∨ o = 0b111#3 := by
  revert o; decide

/-- Decoding keeps the op value (R64). -/
@[simp] theorem op_decode (w : CmdWord) : (decode w).op = w.op := by
  obtain h | h | h | h | h | h | h | h := op_cases w.op <;> simp [decode, h, Instr.op]

/-- The decoder reads back the command that the encoder wrote (R64, R66). -/
@[simp] theorem decode_encode (i : Instr) : decode (encode i) = i := by
  cases i with
  | alawDec c => simp [decode, Instr.op, Instr.din, BitVec.extractLsb'_setWidth_of_le]
  | ulawDec c => simp [decode, Instr.op, Instr.din, BitVec.extractLsb'_setWidth_of_le]
  | adpcmDec c => simp [decode, Instr.op, Instr.din, BitVec.extractLsb'_setWidth_of_le]
  | _ => simp [decode, Instr.op, Instr.din]

theorem legal_iff (st : StWord) : st.legal = true ↔ (stIdx st).toNat ≤ 88 :=
  decide_eq_true_iff

/-- An ADPCM operation leaves a legal index, whatever ST_IN was (R127, R133). -/
theorem adpcmUpdate_legal (m : IdxOor) (st : StWord) (neg : Bool) (delta : BitVec 3) :
    (adpcmUpdate m st neg delta).legal = true := by
  have hle := adpcmNextIndex_le (adpcmBase m (stIdx st).toNat) delta
  rw [legal_iff]
  simp only [adpcmUpdate, stIdx_packSt, BitVec.toNat_ofNat]
  omega

/-- The four G.711 operations complete and read no part of ST_IN (R28). -/
theorem transact_g711 (p : Config) (i : Instr)
    (hi : (∃ x, i = .alawEnc x) ∨ (∃ c, i = .alawDec c) ∨ (∃ x, i = .ulawEnc x) ∨ (∃ c, i = .ulawDec c)) :
    ∃ d : Dout, ∀ st : StWord, transact p i st = .ok d st := by
  obtain ⟨x, rfl⟩ | ⟨c, rfl⟩ | ⟨x, rfl⟩ | ⟨c, rfl⟩ := hi
  · exact ⟨doutOfCode8 (alawEncode p.negMag x), fun _ => rfl⟩
  · exact ⟨doutOfSample (alawDecode c), fun _ => rfl⟩
  · exact ⟨doutOfCode8 (ulawEncode p.negMag x), fun _ => rfl⟩
  · exact ⟨doutOfSample (ulawDecode c), fun _ => rfl⟩

/-- Everything a completed transaction can be: its op is not reserved, and either ST passes through (R28) or the command is
an ADPCM operation, which leaves a legal index (R133). -/
theorem transact_ok_cases (p : Config) (i : Instr) (st st' : StWord) (d : Dout) (h : transact p i st = .ok d st') :
    reservedOp i.op = false ∧
      (st' = st ∨ ((∃ x, i = .adpcmEnc x) ∨ ∃ c, i = .adpcmDec c) ∧ st'.legal = true) := by
  cases i with
  | alawEnc x => cases h; exact ⟨rfl, .inl rfl⟩
  | alawDec c => cases h; exact ⟨rfl, .inl rfl⟩
  | ulawEnc x => cases h; exact ⟨rfl, .inl rfl⟩
  | ulawDec c => cases h; exact ⟨rfl, .inl rfl⟩
  | adpcmEnc x => cases h; exact ⟨rfl, .inr ⟨.inl ⟨x, rfl⟩, adpcmUpdate_legal _ _ _ _⟩⟩
  | adpcmDec c => cases h; exact ⟨rfl, .inr ⟨.inr ⟨c, rfl⟩, adpcmUpdate_legal _ _ _ _⟩⟩
  | reservedOp110 => cases h
  | reservedOp111 => cases h

/-- Only a reserved op is refused, and the refusal records its op value (R151). -/
theorem transact_refused_cases (p : Config) (i : Instr) (st : StWord) (r : RefusedReason)
    (h : transact p i st = .refused r) : reservedOp i.op = true ∧ r = .reservedOp i.op := by
  cases i with
  | reservedOp110 => cases h; exact ⟨rfl, rfl⟩
  | reservedOp111 => cases h; exact ⟨rfl, rfl⟩
  | _ => cases h

/-- A command whose op is not reserved completes in every stream state (R150). -/
theorem transact_ok_of_not_reserved (p : Config) (i : Instr) (st : StWord) (hi : reservedOp i.op = false) :
    ∃ (d : Dout) (st' : StWord), transact p i st = .ok d st' := by
  cases h : transact p i st with
  | ok d st' => exact ⟨d, st', rfl⟩
  | refused r => exact absurd (transact_refused_cases p i st r h).1 (by simp [hi])

/-- Settles O28: the core passes ST through, and the harness takes that outcome. -/
theorem g711PassesStateThrough : Obligations.G711PassesStateThrough := by
  unfold Obligations.G711PassesStateThrough
  intro s i hi
  obtain ⟨d, hd⟩ := transact_g711 s.params i hi
  refine ⟨d, fun st => ⟨?_, hd st⟩⟩
  rw [exec_eq_settle, hd]
  rfl

/-- Settles O11: the harness takes a refusal by setting `refused` (R33). -/
theorem reservedCommandsTakeRefusal : Obligations.ReservedCommandsTakeRefusal := by
  unfold Obligations.ReservedCommandsTakeRefusal
  intro s
  exact ⟨by rw [exec_eq_settle]; rfl, by rw [exec_eq_settle]; rfl⟩

/-- Settles O27: `exec` takes the core's outcome, and an outcome is completed exactly when the op is not reserved. -/
theorem execFrame : Obligations.ExecFrame := by
  unfold Obligations.ExecFrame
  intro i s t h
  rw [exec_eq_settle] at h
  obtain ⟨d, st, ho, rfl⟩ | ⟨r, ho, rfl⟩ := settle_cases _ s t h
  · obtain ⟨hres, hst⟩ := transact_ok_cases _ _ _ _ _ ho
    refine ⟨rfl, rfl, rfl, rfl, fun _ => ⟨rfl, rfl, ⟨d, rfl⟩, hst.imp id And.left⟩, fun hi => ?_⟩
    exact absurd hi (by simp [hres])
  · obtain ⟨hres, -⟩ := transact_refused_cases _ _ _ _ ho
    exact ⟨rfl, rfl, rfl, rfl, fun hi => absurd hi (by simp [hres]), fun _ => rfl⟩

end Sys2Proof.Machine
end

section
/-! The harness step (R31 to R33): which of its cases a state is in, what it takes from the core, what it leaves unchanged,
and the two invariants. -/

namespace Sys2Proof.Machine

/-! ### Start states -/

/-- Settles O22: both states are `State.start` of some program. -/
theorem harnessStartState : Obligations.HarnessStartState := by
  unfold Obligations.HarnessStartState
  exact ⟨⟨rfl, rfl, rfl, rfl⟩, fun p prog st => ⟨start_k p prog st, start_st p prog st, start_out p prog st,
    start_refused p prog st, start_prog p prog st⟩⟩

/-- Settles O23: both fields of the ST word 0 are 0. -/
theorem defaultStreamState : Obligations.DefaultStreamState := by
  unfold Obligations.DefaultStreamState
  exact ⟨rfl, by decide, by decide⟩

/-- A harness at the start of a program has passed no item. -/
theorem start_harnessInv (p : Config) (prog : List Item) (st : StWord) : (State.start p prog st).HarnessInv := by
  simp [State.HarnessInv, commandCount]

/-- The default stream state is legal (R27), and no directive is to come in the empty program. -/
theorem reset_streamInv : State.reset.StreamInv := by
  refine ⟨by decide, fun p i hmem => ?_⟩
  simp [State.reset] at hmem

/-- Settles O21: the reset state is the start state of the empty program. -/
theorem startStatesMeetInvariants : Obligations.StartStatesMeetInvariants := by
  unfold Obligations.StartStatesMeetInvariants
  exact ⟨start_harnessInv, start_harnessInv _ _ _, reset_streamInv⟩

/-! ### The step of a command -/

/-- The step of a command word is `exec` of the decoded command with the ports driven (R22, R33). -/
theorem step_of_cmd_exec (s : State) (c : CmdWord) (hr : s.refused = false) (h : fetchItem s = some (.cmd c)) :
    step s = exec (decode c) (present c s) := by
  rw [step_of_cmd s c hr h, exec_eq_settle, present_params, present_st]

/-- Settles O13: driving the ports is `present`. -/
theorem stepRunsDecodedCommand : Obligations.StepRunsDecodedCommand := by
  unfold Obligations.StepRunsDecodedCommand
  exact step_of_cmd_exec

/-- Settles O25: a placed word is the one fetched, and it is the low 19 bits of the number. -/
theorem placedWordRunsNext : Obligations.PlacedWordRunsNext := by
  unfold Obligations.PlacedWordRunsNext
  intro s nbits w
  refine ⟨tableWord nbits w, decode (tableWord nbits w), BitVec.toNat_ofNat _ _, rfl, rfl, ?_⟩
  exact step_of_cmd_exec (s.withFetchWord nbits w) _ (withFetchWord_refused s nbits w) (placeItem_get _ _ _)

/-- After a completed command the output ports show its transaction (R24, R35). -/
theorem outputs_complete_present (d : Dout) (st : StWord) (c : CmdWord) (s : State) :
    (complete d st (present c s)).outputs = transact s.params (decode c) s.st := rfl

/-- After a refused command the output ports show its transaction (R24, R35). -/
theorem outputs_refuse_present (c : CmdWord) (s : State) :
    (refuse (present c s)).outputs = transact s.params (decode c) s.st := rfl

/-- Settles O12: both steps take the one outcome of the core for these inputs. -/
theorem resultsDependOnInputsAlone : Obligations.ResultsDependOnInputsAlone := by
  unfold Obligations.ResultsDependOnInputsAlone
  intro s t c hp hst hsr htr hs ht
  have hstep_s := step_of_cmd s c hsr hs
  have hstep_t := step_of_cmd t c htr ht
  rw [← hp, ← hst] at hstep_t
  cases ho : transact s.params (decode c) s.st with
  | ok d st =>
    rw [ho, settle_ok] at hstep_s hstep_t
    refine ⟨_, _, hstep_s, hstep_t, rfl, ?_, ?_, .inr ⟨d, rfl, rfl⟩⟩
    · simp [hsr, htr]
    · rw [outputs_complete_present, outputs_complete_present, hp, hst]
  | refused r =>
    rw [ho, settle_refused] at hstep_s hstep_t
    refine ⟨_, _, hstep_s, hstep_t, hst, rfl, ?_, .inl ⟨rfl, rfl, rfl⟩⟩
    rw [outputs_refuse_present, outputs_refuse_present, hp, hst]

/-! ### The cases of a step -/

/-- No item stands at `k` exactly when the program has ended. -/
theorem fetchItem_eq_none_iff (s : State) : fetchItem s = none ↔ s.prog.length ≤ s.k :=
  List.getElem?_eq_none_iff

theorem lt_length_of_fetchItem (s : State) (item : Item) (h : fetchItem s = some item) : s.k < s.prog.length :=
  (List.getElem?_eq_some_iff.1 h).1

/-- Settles O14: one lemma of the model for each case of R33. -/
theorem harnessStepFollowsCore : Obligations.HarnessStepFollowsCore := by
  unfold Obligations.HarnessStepFollowsCore
  intro s
  refine ⟨step_of_refused s, fun hr hk => step_of_none s hr ((fetchItem_eq_none_iff s).2 hk.ge),
    step_of_state s, fun c hr hf => ⟨fun d s2 ho => ?_, fun r ho => ?_⟩⟩
  · rw [step_of_cmd s c hr hf, show transact s.params (decode c) s.st = .ok d s2 from ho]
    rfl
  · rw [step_of_cmd s c hr hf, show transact s.params (decode c) s.st = .refused r from ho]
    rfl

/-- The three cases of R33: refused, at the end of P, or an item left, which gives a next state. -/
theorem step_trichotomy (s : State) :
    (s.refused = true ∧ step s = .fault .runRefused) ∨
    (s.refused = false ∧ s.prog.length ≤ s.k ∧ step s = .fault .runEnded) ∨
    (s.refused = false ∧ s.k < s.prog.length ∧ ∃ t, step s = .next t) := by
  cases hr : s.refused with
  | true => exact .inl ⟨rfl, step_of_refused s hr⟩
  | false =>
    refine .inr ?_
    cases hf : fetchItem s with
    | none => exact .inl ⟨rfl, (fetchItem_eq_none_iff s).1 hf, step_of_none s hr hf⟩
    | some item =>
      refine .inr ⟨rfl, lt_length_of_fetchItem s item hf, ?_⟩
      cases item with
      | state p i => exact ⟨_, step_of_state s p i hr hf⟩
      | cmd c =>
        rw [step_of_cmd s c hr hf]
        cases transact s.params (decode c) s.st with
        | ok d st => exact ⟨_, rfl⟩
        | refused r => exact ⟨_, rfl⟩

/-- Settles O16: in each of the three cases the answer and its condition are both known. -/
theorem stepStopsOnlyAtRunEnd : Obligations.StepStopsOnlyAtRunEnd := by
  unfold Obligations.StepStopsOnlyAtRunEnd
  intro s
  obtain ⟨hr, h⟩ | ⟨hr, hk, h⟩ | ⟨hr, hk, t, h⟩ := step_trichotomy s
  · simp [h, hr]
  · simp [h, hr, hk]
  · simp [h, hr, hk]

/-- Settles O17, by the three things a step can be. -/
theorem stepFrame : Obligations.StepFrame := by
  unfold Obligations.StepFrame
  intro s t h
  obtain ⟨hr, ⟨p, i, -, rfl⟩ | ⟨c, d, st, -, -, rfl⟩ | ⟨c, r, -, -, rfl⟩⟩ := step_cases s t h
  · exact ⟨rfl, rfl, fun _ => ⟨rfl, .inl rfl⟩, fun ht => by simp [hr] at ht⟩
  · exact ⟨rfl, rfl, fun _ => ⟨rfl, .inr ⟨d, rfl⟩⟩, fun ht => by simp [hr] at ht⟩
  · exact ⟨rfl, rfl, fun ht => by simp at ht, fun _ => ⟨rfl, rfl, rfl⟩⟩

/-! ### The invariants -/

/-- Passing one more item counts that item. -/
theorem commandCount_take_succ (s : State) (item : Item) (h : fetchItem s = some item) :
    commandCount (s.prog.take (s.k + 1)) = commandCount (s.prog.take s.k) + commandCount [item] := by
  have hget : s.prog[s.k]? = some item := h
  rw [List.take_add_one, hget, Option.toList_some, commandCount_append]

/-- Settles O19: an item that completes is passed and counted, and a refused one is the reserved command now on CMD. -/
theorem stepKeepsHarnessInv : Obligations.StepKeepsHarnessInv := by
  unfold Obligations.StepKeepsHarnessInv
  rintro s t ⟨hk, hout, -⟩ h
  obtain ⟨hr, ⟨p, i, hf, rfl⟩ | ⟨c, d, st, hf, -, rfl⟩ | ⟨c, r, hf, ho, rfl⟩⟩ := step_cases s t h
  · refine ⟨lt_length_of_fetchItem s _ hf, ?_, fun ht => by simp [hr] at ht⟩
    simp [commandCount_take_succ s _ hf, hout, commandCount]
  · refine ⟨lt_length_of_fetchItem s _ hf, ?_, fun ht => by simp [hr] at ht⟩
    simp [commandCount_take_succ s _ hf, hout, commandCount]
  · have hres := (transact_refused_cases _ _ _ _ ho).1
    exact ⟨hk, hout, fun _ => ⟨c, hf, rfl, op_decode c ▸ hres⟩⟩

theorem fetchItem_mem_drop (s : State) (item : Item) (h : fetchItem s = some item) : item ∈ s.prog.drop s.k :=
  List.mem_of_getElem? (i := 0) (by rw [List.getElem?_drop]; exact h)

theorem mem_drop_of_mem_drop_succ (l : List Item) (k : Nat) (item : Item) (h : item ∈ l.drop (k + 1)) :
    item ∈ l.drop k :=
  List.mem_of_mem_tail (List.tail_drop ▸ h)

/-- Settles O20: a directive sets an index that the invariant bounds, an ADPCM operation leaves a legal one (R133), and every
other command passes the index through (R28). -/
theorem stepKeepsStreamInv : Obligations.StepKeepsStreamInv := by
  unfold Obligations.StepKeepsStreamInv
  rintro s t ⟨hlegal, hdir⟩ h
  obtain ⟨-, ⟨p, i, hf, rfl⟩ | ⟨c, d, st, -, ho, rfl⟩ | ⟨c, r, -, -, rfl⟩⟩ := step_cases s t h
  · refine ⟨?_, fun p' i' hmem => hdir p' i' (mem_drop_of_mem_drop_succ _ _ _ hmem)⟩
    rw [setStream_st, legal_iff, stIdx_packSt]
    exact hdir p i (fetchItem_mem_drop s _ hf)
  · refine ⟨?_, fun p' i' hmem => hdir p' i' (mem_drop_of_mem_drop_succ _ _ _ hmem)⟩
    obtain ⟨-, rfl | ⟨-, hst⟩⟩ := transact_ok_cases _ _ _ _ _ ho
    · exact hlegal
    · exact hst
  · exact ⟨hlegal, hdir⟩

end Sys2Proof.Machine
end

section
/-! Runs of the harness (R34): every run ends, and a run of commands is the stream that threads one state (R26, R49). -/

namespace Sys2Proof.Machine

/-- A run of one step more begins with that step. -/
theorem run_succ_of_next (n : Nat) (s t : State) (h : step s = .next t) :
    Sys2Proof.core.run (n + 1) s = Sys2Proof.core.run n t := by
  have hcore : Sys2Proof.core.step s = .next t := h
  simp only [Host.Core.run, hcore]

theorem observation_of_refused (s : State) (h : s.refused = true) : s.observation = none := by
  simp [State.observation, State.endedNormally, h]

theorem observation_of_ended (s : State) (hr : s.refused = false) (hk : s.k = s.prog.length) :
    s.observation = some (s.st, s.out) := by
  simp [State.observation, State.endedNormally, hr, hk]

/-- The run is over (R33, R34): there is no step, and the run was refused, with nothing to observe, or ended normally. -/
def State.RunOver (s : State) : Prop :=
  (∃ f, step s = .fault f) ∧
  ((s.refused = true ∧ s.observation = none) ∨
    (s.refused = false ∧ s.k = s.prog.length ∧ s.observation = some (s.st, s.out)))

theorem runOver_of_refused (s : State) (hr : s.refused = true) : s.RunOver :=
  ⟨⟨_, step_of_refused s hr⟩, .inl ⟨hr, observation_of_refused s hr⟩⟩

theorem runOver_of_ended (s : State) (hr : s.refused = false) (hk : s.k = s.prog.length) : s.RunOver :=
  ⟨⟨_, step_of_none s hr ((fetchItem_eq_none_iff s).2 hk.ge)⟩, .inr ⟨hr, hk, observation_of_ended s hr hk⟩⟩

/-- Settles O18, by induction on the number of items left: an item that completes leaves one fewer, and a refusal ends the
run at once. -/
theorem everyRunEnds : Obligations.EveryRunEnds := by
  unfold Obligations.EveryRunEnds
  intro s hs
  induction hm : s.prog.length - s.k using Nat.strong_induction_on generalizing s with
  | h m ih =>
    obtain ⟨hr, -⟩ | ⟨hr, hk, -⟩ | ⟨-, hk, t, hstep⟩ := step_trichotomy s
    · exact ⟨0, s, Nat.zero_le m, rfl, runOver_of_refused s hr⟩
    · exact ⟨0, s, Nat.zero_le m, rfl, runOver_of_ended s hr (hs.antisymm hk)⟩
    · obtain ⟨-, hprog, hcompleted, -⟩ := stepFrame s t hstep
      cases ht : t.refused with
      | true => exact ⟨1, t, by omega, run_succ_of_next 0 s t hstep, runOver_of_refused t ht⟩
      | false =>
        obtain ⟨hkt, -⟩ := hcompleted ht
        obtain ⟨n, u, hn, hrun, hover⟩ := ih (m - 1) (by omega) t (by rw [hprog]; omega) (by rw [hprog]; omega)
        exact ⟨n + 1, u, by omega, (run_succ_of_next n s t hstep).trans hrun, hover⟩

/-! ### A program of commands -/

/-- What is left of the run is the commands `is`. -/
def State.Awaits (s : State) (is : List Instr) : Prop :=
  s.refused = false ∧ s.k + is.length = s.prog.length ∧ s.prog.drop s.k = commandProgram is

theorem start_awaits (p : Config) (is : List Instr) (st : StWord) :
    (State.start p (commandProgram is) st).Awaits is := by
  simp [State.Awaits, commandProgram]

theorem fetchItem_of_awaits (s : State) (i : Instr) (is : List Instr) (h : s.Awaits (i :: is)) :
    fetchItem s = some (.cmd (encode i)) := by
  obtain ⟨-, -, hdrop⟩ := h
  have hget : (s.prog.drop s.k)[0]? = some (.cmd (encode i)) := by rw [hdrop]; rfl
  rwa [List.getElem?_drop] at hget

/-- A command that completes leaves the rest of the commands. -/
theorem complete_awaits (s : State) (i : Instr) (is : List Instr) (d : Dout) (st : StWord) (h : s.Awaits (i :: is)) :
    (complete d st (present (encode i) s)).Awaits is := by
  obtain ⟨hr, hlen, hdrop⟩ := h
  refine ⟨hr, ?_, ?_⟩
  · rw [List.length_cons] at hlen
    simp only [complete_k, present_k, complete_prog, present_prog]
    omega
  · simp only [complete_k, present_k, complete_prog, present_prog]
    rw [← List.tail_drop, hdrop]
    rfl

@[simp] theorem streamState_cons (st : StWord) (r : Dout × StWord) (rs : List (Dout × StWord)) :
    streamState st (r :: rs) = streamState r.2 rs := by
  simp [streamState, List.getLast?_cons]

theorem threadStream_cons_of_ok (p : Config) (st st' : StWord) (i : Instr) (is : List Instr) (d : Dout)
    (h : transact p i st = .ok d st') : threadStream p st (i :: is) = (d, st') :: threadStream p st' is := by
  simp [threadStream, h]

/-- A stream of commands that are not reserved gives one result for each. -/
theorem threadStream_length (p : Config) (st : StWord) (is : List Instr) (his : ∀ i ∈ is, reservedOp i.op = false) :
    (threadStream p st is).length = is.length := by
  induction is generalizing st with
  | nil => rfl
  | cons i is ih =>
    obtain ⟨hi, hrest⟩ := List.forall_mem_cons.1 his
    obtain ⟨d, st', ho⟩ := transact_ok_of_not_reserved p i st hi
    simp [threadStream_cons_of_ok p st st' i is d ho, ih st' hrest]

/-- From any state that awaits commands which are not reserved, the run threads the stream behind what `out` already
holds. -/
theorem run_threads_stream (is : List Instr) (s : State) (hs : s.Awaits is) (his : ∀ i ∈ is, reservedOp i.op = false) :
    ∃ t : State, Sys2Proof.core.run is.length s = .next t ∧
      t.observation = some (streamState s.st (threadStream s.params s.st is),
        s.out ++ (threadStream s.params s.st is).map Prod.fst) := by
  induction is generalizing s with
  | nil =>
    obtain ⟨hr, hlen, -⟩ := hs
    exact ⟨s, rfl, by simp [observation_of_ended s hr hlen, threadStream, streamState]⟩
  | cons i is ih =>
    obtain ⟨hi, hrest⟩ := List.forall_mem_cons.1 his
    obtain ⟨d, st, ho⟩ := transact_ok_of_not_reserved s.params i s.st hi
    have ⟨hr, _, _⟩ := hs
    have hstep : step s = .next (complete d st (present (encode i) s)) := by
      rw [step_of_cmd s _ hr (fetchItem_of_awaits s i is hs), decode_encode, ho, settle_ok]
    obtain ⟨t, hrun, hobs⟩ := ih _ (complete_awaits s i is d st hs) hrest
    refine ⟨t, (run_succ_of_next is.length _ _ hstep).trans hrun, ?_⟩
    rw [hobs, threadStream_cons_of_ok _ _ _ _ _ _ ho]
    simp

/-- Settles O26: the start state awaits the whole program, with nothing in `out`. -/
theorem harnessRunThreadsStream : Obligations.HarnessRunThreadsStream := by
  unfold Obligations.HarnessRunThreadsStream
  intro p st is his
  obtain ⟨t, hrun, hobs⟩ := run_threads_stream is _ (start_awaits p is st) his
  exact ⟨t, hrun, threadStream_length p st is his, by simpa using hobs⟩

end Sys2Proof.Machine
end

section
/-! The read-only tables of the ADPCM unit (R42, R44), and that the streams of a system, the only thing its steps write, are
kept apart (R49, R156, R177). -/

namespace Sys2Proof.Machine

/-! ### The tables STEP and ADJ -/

/-- Neighbouring entries of STEP increase: within each of its three parts, and from each part to the next. -/
theorem stepTable_isChain : stepTable.IsChain (· < ·) := by
  have h0 : stepTable0.IsChain (· < ·) := by decide
  have h30 : stepTable30.IsChain (· < ·) := by decide
  have h60 : stepTable60.IsChain (· < ·) := by decide
  exact (h0.append h30 (by decide)).append h60 (by decide)

theorem romStep_strictMono : StrictMono romStep := fun i j hij =>
  List.pairwise_iff_getElem.1 (List.isChain_iff_pairwise.1 stepTable_isChain) i.val j.val _ _ hij

theorem romStep_zero : romStep 0 = 7 := rfl

theorem romStep_one : romStep 1 = 8 := rfl

/-- From index 1 on the entries are at least 8, so `STEP[i] >> 3` is not 0. -/
theorem eight_le_romStep (i : Fin 89) (hi : 1 ≤ i) : 8 ≤ romStep i :=
  romStep_one ▸ romStep_strictMono.monotone hi

/-- `STEP[i] >> 3` is 0 exactly for entries below 8, and `STEP[0]` is the only one. -/
theorem romStep_shift_eq_zero_iff (i : Fin 89) : romStep i >>> 3 = 0 ↔ i = 0 := by
  constructor
  · intro h
    by_contra hi
    have h8 := eight_le_romStep i (Fin.one_le_of_ne_zero hi)
    rw [Nat.shiftRight_eq_div_pow] at h
    omega
  · rintro rfl
    rfl

/-- The entries 1 to 7 lie between `STEP[1] = 8` and `STEP[7] = 14`. -/
theorem romStep_shift_eq_one (i : Fin 89) (h1 : 1 ≤ i.val) (h7 : i.val ≤ 7) : romStep i >>> 3 = 1 := by
  have hlow := eight_le_romStep i h1
  have hhigh : romStep i ≤ 14 := romStep_strictMono.monotone (show i ≤ 7 from h7)
  rw [Nat.shiftRight_eq_div_pow]
  omega

/-- Settles O50: every bound on the entries follows from the table's order and the entries 0, 1 and 7. -/
theorem stepTableProperties : Obligations.StepTableProperties := by
  unfold Obligations.StepTableProperties
  exact ⟨fun _ _ hij => romStep_strictMono hij, romStep_zero, rfl,
    fun i => romStep_zero ▸ romStep_strictMono.monotone (Fin.zero_le i),
    romStep_shift_eq_zero_iff, romStep_shift_eq_one⟩

/-- Settles O51: the eight entries, read one by one. -/
theorem adjTableValues : Obligations.AdjTableValues := by
  unfold Obligations.AdjTableValues
  decide

/-! ### Streams are kept apart -/

/-- The system with the harness of one stream put in its place: what a step of that stream leaves. -/
def System.putStream (y : System) (i : Nat) (t : State) : System := { y with streams := y.streams.set i t }

@[simp] theorem System.putStream_cores (y : System) (i : Nat) (t : State) : (y.putStream i t).cores = y.cores := rfl

theorem System.putStream_length (y : System) (i : Nat) (t : State) :
    (y.putStream i t).streams.length = y.streams.length := List.length_set

theorem System.putStream_get_ne (y : System) (i n : Nat) (t : State) (h : i ≠ n) :
    (y.putStream i t).streams[n]? = y.streams[n]? := List.getElem?_set_ne h

theorem System.putStream_comm (y : System) (i j : Nat) (t u : State) (h : i ≠ j) :
    (y.putStream i t).putStream j u = (y.putStream j u).putStream i t :=
  congrArg (System.mk y.cores) (List.set_comm t u h)

/-- A stream's step goes on exactly where its harness has a next state on the core's parameters, and puts that state in
the stream's place. -/
theorem stepStream_eq_next_iff (y z : System) (c j : Nat) :
    y.stepStream c j = some (.next z) ↔
      ∃ p s t, y.cores[c]? = some p ∧ y.streams[j]? = some s ∧ step (s.onCore p) = .next t ∧ z = y.putStream j t := by
  constructor
  · exact stepStream_next y z c j
  · rintro ⟨p, s, t, hc, hs, ht, rfl⟩
    rw [stepStream_of_get y c j p s hc hs, ht]
    rfl

/-- A stream's step stops exactly where its harness stops on the core's parameters. -/
theorem stepStream_eq_fault_iff (y : System) (c j : Nat) (f : Fault) :
    y.stepStream c j = some (.fault f) ↔
      ∃ p s, y.cores[c]? = some p ∧ y.streams[j]? = some s ∧ step (s.onCore p) = .fault f := by
  constructor
  · exact stepStream_fault y c j f
  · rintro ⟨p, s, hc, hs, hf⟩
    rw [stepStream_of_get y c j p s hc hs, hf]

/-- A stream that stops still stops when the harness of another stream is replaced. -/
theorem stepStream_fault_putStream (y : System) (d i j : Nat) (t : State) (f : Fault) (hij : i ≠ j)
    (h : y.stepStream d j = some (.fault f)) : (y.putStream i t).stepStream d j = some (.fault f) := by
  rw [stepStream_eq_fault_iff] at h ⊢
  rwa [System.putStream_cores, System.putStream_get_ne y i j t hij]

/-- A stream that goes on to `u` still goes on to `u` when the harness of another stream is replaced. -/
theorem stepStream_next_putStream (y : System) (d i j : Nat) (t u : State) (p : Config) (s : State) (hij : i ≠ j)
    (hd : y.cores[d]? = some p) (hs : y.streams[j]? = some s) (hu : step (s.onCore p) = .next u) :
    (y.putStream i t).stepStream d j = some (.next ((y.putStream i t).putStream j u)) :=
  (stepStream_eq_next_iff _ _ d j).2 ⟨p, s, u, hd, (y.putStream_get_ne i j t hij).trans hs, hu, rfl⟩

/-- Settles O31: a step writes its own stream only and reads its core and its own stream only, so the two steps write
different places with what each would write alone. -/
theorem coresDoNotInterfere : Obligations.CoresDoNotInterfere := by
  unfold Obligations.CoresDoNotInterfere
  intro y y1 c i h1
  obtain ⟨p, s, t, hc, hs, ht, rfl⟩ := (stepStream_eq_next_iff y y1 c i).1 h1
  refine ⟨y.putStream_cores i t, y.putStream_length i t, fun n hn => y.putStream_get_ne i n t hn.symm,
    fun d j hij => ⟨fun f => stepStream_fault_putStream y d i j t f hij, fun y2 h2 => ?_⟩⟩
  obtain ⟨q, r, u, hd, hr, hu, rfl⟩ := (stepStream_eq_next_iff y y2 d j).1 h2
  refine ⟨(y.putStream i t).putStream j u, stepStream_next_putStream y d i j t u q r hij hd hr hu, ?_⟩
  rw [y.putStream_comm i j t u hij]
  exact stepStream_next_putStream y c j i u t p s hij.symm hc hs ht

end Sys2Proof.Machine
end

section
/-! The CMD word and the command it names (R61, R64, R66): what decoding keeps of each field, the canonical word of a command,
and the op-code map. -/

namespace Sys2Proof.Machine

/-! ### Decoding keeps the op value and the operand bits -/

/-- A code taken from the low bits of `din` (R61) and zero-extended is `din` with the other bits cleared. -/
theorem setWidth_extract_low (din : BitVec 16) (n : Nat) (hn : n ≤ 16) :
    (din.extractLsb' 0 n).setWidth 16 = din &&& BitVec.ofNat 16 (2 ^ n - 1) := by
  have hpow : 2 ^ n ≤ 65536 := Nat.pow_le_pow_right (n := 2) (by decide) hn
  have hpos : 0 < 2 ^ n := Nat.two_pow_pos n
  have hlow : din.toNat % 2 ^ n < 2 ^ n := Nat.mod_lt _ hpos
  apply BitVec.eq_of_toNat_eq
  rw [BitVec.toNat_setWidth, BitVec.extractLsb'_toNat, BitVec.toNat_and, BitVec.toNat_ofNat, Nat.shiftRight_zero,
    Nat.mod_eq_of_lt (a := 2 ^ n - 1) (by omega), Nat.and_two_pow_sub_one_eq_mod, Nat.mod_eq_of_lt (by omega)]

/-- Decoding keeps exactly the bits of `din` that R61 does not mark ignored. -/
theorem din_decode (w : CmdWord) : (decode w).din = w.din &&& ~~~(ignoredMask w.op) := by
  have hfull : w.din &&& 0xFFFF#16 = w.din := BitVec.and_allOnes
  have h8 := setWidth_extract_low w.din 8 (by decide)
  have h4 := setWidth_extract_low w.din 4 (by decide)
  obtain h | h | h | h | h | h | h | h := op_cases w.op
  · simp [decode, h, Instr.din, ignoredMask, hfull]
  · simpa [decode, h, Instr.din, ignoredMask] using h8
  · simp [decode, h, Instr.din, ignoredMask, hfull]
  · simpa [decode, h, Instr.din, ignoredMask] using h8
  · simp [decode, h, Instr.din, ignoredMask, hfull]
  · simpa [decode, h, Instr.din, ignoredMask] using h4
  · simp [decode, h, Instr.din, ignoredMask]
  · simp [decode, h, Instr.din, ignoredMask]

/-- The canonical word of the command a word names: the ignored bits are cleared (R66). -/
theorem encode_decode (w : CmdWord) : encode (decode w) = cmdWord w.op (w.din &&& ~~~(ignoredMask w.op)) := by
  rw [encode, op_decode, din_decode]

/-- A command's own word is canonical (R66). -/
theorem canonical_encode (i : Instr) : (encode i).canonical = true := by
  cases i with
  | alawEnc x => exact (Laws.CanonicalEncoding.alawEnc x).2
  | alawDec c => exact (Laws.CanonicalEncoding.alawDec c).2
  | ulawEnc x => exact (Laws.CanonicalEncoding.ulawEnc x).2
  | ulawDec c => exact (Laws.CanonicalEncoding.ulawDec c).2
  | adpcmEnc x => exact (Laws.CanonicalEncoding.adpcmEnc x).2
  | adpcmDec c => exact (Laws.CanonicalEncoding.adpcmDec c).2
  | reservedOp110 => exact Laws.CanonicalEncoding.reservedOp110.2
  | reservedOp111 => exact Laws.CanonicalEncoding.reservedOp111.2

/-- A word with no bit in a mask is not changed by clearing the mask. -/
theorem and_not_eq_self {n : Nat} (x m : BitVec n) (h : x &&& m = 0#n) : x &&& ~~~m = x := by
  have hsplit : (x &&& m) ||| (x &&& ~~~m) = x := by
    apply BitVec.eq_of_getLsbD_eq
    intro j hj
    simp only [BitVec.getLsbD_or, BitVec.getLsbD_and, BitVec.getLsbD_not, hj]
    cases x.getLsbD j <;> cases m.getLsbD j <;> rfl
  simpa [h] using hsplit

/-- Encoding undoes decoding on canonical words. -/
theorem encode_decode_of_canonical (w : CmdWord) (h : w.canonical = true) : encode (decode w) = w := by
  have hclear : w.din &&& ignoredMask w.op = 0#16 := by simpa [canonical_eq] using h
  rw [encode_decode, and_not_eq_self _ _ hclear, cmdWord_fields]

/-- Settles O4: on canonical words the encoder and the decoder undo each other, so the canonical word is unique. -/
theorem decodeEncodeRoundTrip : Obligations.DecodeEncodeRoundTrip := by
  unfold Obligations.DecodeEncodeRoundTrip
  intro i
  refine ⟨decode_encode i, canonical_encode i, ?_⟩
  rintro w rfl hw
  exact (encode_decode_of_canonical w hw).symm

/-- Two words name the same command exactly when they have the same canonical word. -/
theorem decode_eq_iff_encode (w v : CmdWord) : decode w = decode v ↔ encode (decode w) = encode (decode v) :=
  ⟨congrArg encode, fun h => by simpa using congrArg decode h⟩

theorem cmdWord_inj (o o' : OpField) (d d' : BitVec 16) : cmdWord o d = cmdWord o' d' ↔ o = o' ∧ d = d' := by
  constructor
  · intro h
    exact ⟨by simpa using congrArg CmdWord.op h, by simpa using congrArg CmdWord.din h⟩
  · rintro ⟨rfl, rfl⟩
    rfl

/-- Two words name the same command exactly when their op fields agree and their `din` fields agree outside the ignored
bits of that op. -/
theorem decode_eq_iff (w v : CmdWord) : decode w = decode v ↔
    w.op = v.op ∧ w.din &&& ~~~(ignoredMask w.op) = v.din &&& ~~~(ignoredMask w.op) := by
  rw [decode_eq_iff_encode, encode_decode, encode_decode, cmdWord_inj]
  exact and_congr_right fun hop => by rw [hop]

/-- Settles O5: the words 0x1FFD5 and 0x100D5 of ALAW.DEC differ in ignored bits only. -/
theorem sameCommandIffOperandBitsAgree : Obligations.SameCommandIffOperandBitsAgree := by
  unfold Obligations.SameCommandIffOperandBitsAgree
  exact ⟨decode_eq_iff, 0x1FFD5#19, 0x100D5#19, by decide, by decide⟩

/-- A word whose op is not reserved is not refused (R65, R150). -/
theorem coreTransaction_ne_refused (p : Config) (w : CmdWord) (st : StWord) (hw : reservedOp w.op = false)
    (r : RefusedReason) : coreTransaction p w st ≠ .refused r := by
  intro h
  have hres := (transact_refused_cases p (decode w) st r h).1
  simp [hw] at hres

/-- Settles O6: the two words name the same command, and the core sees the command only. -/
theorem ignoredBitsNeverMatter : Obligations.IgnoredBitsNeverMatter := by
  unfold Obligations.IgnoredBitsNeverMatter
  intro p st w v hw hop hdin
  have hdec : decode w = decode v := (decode_eq_iff w v).2 ⟨hop, hdin⟩
  exact ⟨congrArg (transact p · st) hdec, fun r =>
    ⟨coreTransaction_ne_refused p w st hw r, coreTransaction_ne_refused p v st (hop ▸ hw) r⟩⟩

/-! ### The op-code map -/

/-- The one mask of the map keeps the op field and clears `din`. -/
theorem and_opMask (w : CmdWord) : w &&& 0x70000#19 = cmdWord w.op 0#16 := by
  have hmask : (0x70000#19 : CmdWord) = (0b111#3 ++ 0#16 : BitVec 19) := by decide
  have hop : w.op &&& 0b111#3 = w.op := BitVec.and_allOnes
  calc w &&& 0x70000#19
    _ = (w.op ++ w.din : BitVec 19) &&& (0b111#3 ++ 0#16 : BitVec 19) := by
      rw [← hmask]; exact congrArg (· &&& 0x70000#19) (cmdWord_fields w).symm
    _ = cmdWord w.op 0#16 := by rw [BitVec.and_append, hop, BitVec.and_zero, cmdWord]

/-- A word matches the pattern of an op value exactly when the command it names has that op value. -/
theorem and_opMask_eq_iff (w : CmdWord) (o : OpField) : w &&& 0x70000#19 = cmdWord o 0#16 ↔ (decode w).op = o := by
  rw [and_opMask, cmdWord_inj, op_decode, and_iff_left rfl]

/-- The row of an op value in the map. -/
def opRow (o : OpField) : OpRow := { op := o, pattern := cmdWord o 0#16, mask := 0x70000#19 }

theorem opRow_mem_opTable (o : OpField) : opRow o ∈ opTable := by
  revert o; decide

theorem eq_opRow_of_mem_opTable : ∀ r ∈ opTable, r = opRow r.op := by decide

theorem opRow_holds_iff (o : OpField) (w : CmdWord) : (opRow o).holds w = true ↔ (decode w).op = o := by
  rw [← and_opMask_eq_iff]
  exact decide_eq_true_iff

/-- Every word is in exactly one row, that of its op value. -/
theorem existsUnique_row (w : CmdWord) : ∃! r : OpRow, r ∈ opTable ∧ r.holds w = true := by
  refine ⟨opRow (decode w).op, ⟨opRow_mem_opTable _, (opRow_holds_iff _ w).2 rfl⟩, ?_⟩
  rintro r ⟨hmem, hholds⟩
  have hr := eq_opRow_of_mem_opTable r hmem
  rw [hr, opRow_holds_iff] at hholds
  rw [hr, hholds]

/-- The op value tells the eight operations apart (R64). -/
theorem op_eq_iff (i : Instr) :
    (i.op = 0b000#3 ↔ ∃ x, i = .alawEnc x) ∧ (i.op = 0b001#3 ↔ ∃ c, i = .alawDec c) ∧
    (i.op = 0b010#3 ↔ ∃ x, i = .ulawEnc x) ∧ (i.op = 0b011#3 ↔ ∃ c, i = .ulawDec c) ∧
    (i.op = 0b100#3 ↔ ∃ x, i = .adpcmEnc x) ∧ (i.op = 0b101#3 ↔ ∃ c, i = .adpcmDec c) ∧
    (i.op = 0b110#3 ↔ i = .reservedOp110) ∧ (i.op = 0b111#3 ↔ i = .reservedOp111) := by
  cases i <;> simp [Instr.op]

/-- Settles O3: the pattern of each row is its op value with `din` 0, and decoding keeps the op value. -/
theorem opcodeMapSelectsOperation : Obligations.OpcodeMapSelectsOperation := by
  unfold Obligations.OpcodeMapSelectsOperation
  intro w
  obtain ⟨h0, h1, h2, h3, h4, h5, h6, h7⟩ := op_eq_iff (decode w)
  exact ⟨(and_opMask_eq_iff w 0b000#3).trans h0, (and_opMask_eq_iff w 0b001#3).trans h1,
    (and_opMask_eq_iff w 0b010#3).trans h2, (and_opMask_eq_iff w 0b011#3).trans h3,
    (and_opMask_eq_iff w 0b100#3).trans h4, (and_opMask_eq_iff w 0b101#3).trans h5,
    (and_opMask_eq_iff w 0b110#3).trans h6, (and_opMask_eq_iff w 0b111#3).trans h7, existsUnique_row w⟩

/-- Settles O2: each word's op field is 0b000 to 0b111 in turn, and its low bits are the operand. -/
theorem sampleWordsDecode : Obligations.SampleWordsDecode := by
  unfold Obligations.SampleWordsDecode
  decide

end Sys2Proof.Machine
end

section
/-! The output forms of the transactions (R28, R63): codes zero-extended, samples in two's complement. -/

namespace Sys2Proof.Machine

/-- A zero-extended code has no bit above its width. -/
theorem extractLsb'_setWidth_high {n : Nat} (c : BitVec n) (k : Nat) :
    (c.setWidth (n + k)).extractLsb' n k = 0#k := by
  apply BitVec.eq_of_getLsbD_eq
  intro j hj
  simp

theorem natAbs_applySign (negative : Bool) (mag : Nat) : (applySign negative mag).natAbs = mag := by
  cases negative <;> simp [applySign]

theorem rawSegment_lt (r : Code8) : rawSegment r < 8 := (r.extractLsb' 4 3).isLt

theorem rawMantissa_lt (r : Code8) : rawMantissa r < 16 := (r.extractLsb' 0 4).isLt

/-- The largest A-law magnitude is that of segment 7 and mantissa 15 (R86). -/
theorem alawExpand_le (seg m : Nat) (hseg : seg < 8) (hm : m < 16) : alawExpand seg m ≤ 32256 := by
  unfold alawExpand
  split
  · omega
  · have hpow : 2 ^ (seg - 1) ≤ 64 := Nat.pow_le_pow_right (n := 2) (by decide) (show seg - 1 ≤ 6 by omega)
    have hbase : (m <<< 4) + 264 ≤ 504 := by omega
    exact (Nat.shiftLeft_eq _ _).trans_le (Nat.mul_le_mul hbase hpow)

/-- The largest mu-law magnitude is that of segment 7 and mantissa 15 (R107). -/
theorem ulawExpand_le (seg m : Nat) (hseg : seg < 8) (hm : m < 16) : ulawExpand seg m ≤ 32124 := by
  have hpow : 2 ^ seg ≤ 128 := Nat.pow_le_pow_right (n := 2) (by decide) (show seg ≤ 7 by omega)
  have hbase : (m <<< 3) + 132 ≤ 252 := by omega
  have hshift : ((m <<< 3) + 132) <<< seg ≤ 32256 := (Nat.shiftLeft_eq _ _).trans_le (Nat.mul_le_mul hbase hpow)
  unfold ulawExpand
  omega

/-- A decoded A-law sample is at most 32256 in magnitude (R90). -/
theorem natAbs_alawDecode_le (c : Code8) : (alawDecode c).natAbs ≤ 32256 := by
  rw [alawDecode, natAbs_applySign]
  exact alawExpand_le _ _ (rawSegment_lt _) (rawMantissa_lt _)

/-- A decoded mu-law sample is at most 32124 in magnitude (R111). -/
theorem natAbs_ulawDecode_le (c : Code8) : (ulawDecode c).natAbs ≤ 32124 := by
  rw [ulawDecode, natAbs_applySign]
  exact ulawExpand_le _ _ (rawSegment_lt _) (rawMantissa_lt _)

/-- DOUT holds a 16-bit signed sample without loss (R63). -/
theorem toInt_doutOfSample (y : Int) (h : y.natAbs < 32768) : (doutOfSample y).toInt = y :=
  BitVec.toInt_ofInt_eq_self (by decide) (by omega) (by omega)

/-- Settles O29: the transactions name their codes and samples, and a decoded sample fits in 16 bits. -/
theorem outputAssembly : Obligations.OutputAssembly := by
  unfold Obligations.OutputAssembly
  refine ⟨fun p x st => ?_, fun p c st => ?_, fun p c st => ?_⟩
  · exact ⟨alawEncode p.negMag x, ulawEncode p.negMag x, adpcmCode (adpcmNeg x st) (adpcmDelta x st), _,
      rfl, rfl, rfl, rfl, rfl, extractLsb'_setWidth_high (n := 8) _ 8, extractLsb'_setWidth_high (n := 8) _ 8,
      extractLsb'_setWidth_high (n := 4) _ 12⟩
  · have ha := natAbs_alawDecode_le c
    have hu := natAbs_ulawDecode_le c
    exact ⟨doutOfSample (alawDecode c), doutOfSample (ulawDecode c), rfl, toInt_doutOfSample _ (by omega), rfl,
      toInt_doutOfSample _ (by omega)⟩
  · exact ⟨_, _, rfl, rfl⟩

end Sys2Proof.Machine
end

section
/-! The assembler on source items (R68, R70): the word of a literal in range, the refusal of any other, and the directive. -/

namespace Sys2Proof.Machine

/-! ### Items in range and out of range -/

theorem assembleItem_of_not_wellFormed (t : SrcItem) (h : t.wellFormed = false) :
    assembleItem t = .error .outOfRange := by
  simp [assembleItem, h]

theorem assembleItem_command (m : Mnemonic) (l : Literal) (h : m.operandOk l = true) :
    assembleItem (.command m l) = .ok (.cmd (encode (Mnemonic.instr m l))) := by
  simp [assembleItem, SrcItem.wellFormed, h]

theorem assembleItem_rawWord (v : Nat) (h : v < 524288) : assembleItem (.rawWord v) = .ok (.cmd (BitVec.ofNat 19 v)) := by
  simp [assembleItem, SrcItem.wellFormed, h]

theorem assembleItem_state (p i : Literal) (hp : p.isSample = true) (hi : i.isUpTo 255 = true) :
    assembleItem (.state p i) = .ok (.state (Literal.bits16 p) (BitVec.ofNat 8 (Literal.value i))) := by
  simp [assembleItem, SrcItem.wellFormed, hp, hi]

/-! ### The numbers of a command's word -/

theorem toNat_encode (i : Instr) : (encode i).toNat = i.op.toNat * 65536 + i.din.toNat := by
  rw [encode, cmdWord, BitVec.toNat_append, ← Nat.shiftLeft_add_eq_or_of_lt i.din.isLt, Nat.shiftLeft_eq]

/-- A literal that is accepted gives the canonical word `op << 16 | din` of the command its line names. -/
theorem command_assembles (m : Mnemonic) (l : Literal) (hok : m.operandOk l = true) (op din : Int)
    (hop : ((Mnemonic.instr m l).op.toNat : Int) = op) (hdin : ((Mnemonic.instr m l).din.toNat : Int) = din) :
    ∃ w : CmdWord, assembleItem (.command m l) = .ok (.cmd w) ∧
      (w.toNat : Int) = op * 65536 + din ∧ w.canonical = true ∧ decode w = Mnemonic.instr m l := by
  refine ⟨_, assembleItem_command m l hok, ?_, canonical_encode _, decode_encode _⟩
  rw [toNat_encode, ← hop, ← hdin]
  push_cast
  rfl

/-- The row of a mnemonic that takes a sample (R68). -/
structure SampleRow (m : Mnemonic) (op : Int) : Prop where
  range : ∀ l, m.operandOk l = l.isSample
  op_eq : ∀ l, ((Mnemonic.instr m l).op.toNat : Int) = op
  din_eq : ∀ l, (Mnemonic.instr m l).din = Literal.bits16 l

/-- The row of a mnemonic that takes a code of at most `hi` (R68). -/
structure CodeRow (m : Mnemonic) (op hi : Int) : Prop where
  hi_nonneg : 0 ≤ hi
  range : ∀ l, m.operandOk l = l.isUpTo hi.toNat
  op_eq : ∀ l, ((Mnemonic.instr m l).op.toNat : Int) = op
  din_eq : ∀ l, (Literal.value l : Int) ≤ hi → (Mnemonic.instr m l).din.toNat = Literal.value l

theorem toNat_bits16_dec (v : Int) : ((Literal.bits16 (.dec v)).toNat : Int) = v % 65536 := by
  rw [Literal.bits16, BitVec.toNat_ofInt]
  omega

theorem toNat_bits16_hex (v : Nat) (h : v ≤ 0xFFFF) : (Literal.bits16 (.hex v)).toNat = v :=
  (BitVec.toNat_ofNat v 16).trans (Nat.mod_eq_of_lt (by omega))

section Rows

variable {m : Mnemonic} {op hi : Int}

/-- A sample in range assembles to its 16-bit pattern under the row's op value. -/
theorem SampleRow.assembles (h : SampleRow m op) (l : Literal) (hl : l.isSample = true) :
    ∃ w : CmdWord, assembleItem (.command m l) = .ok (.cmd w) ∧
      (w.toNat : Int) = op * 65536 + (Literal.bits16 l).toNat ∧ w.canonical = true ∧ decode w = Mnemonic.instr m l :=
  command_assembles m l ((h.range l).trans hl) op _ (h.op_eq l) (by rw [h.din_eq])

/-- A sample out of range is refused. -/
theorem SampleRow.refuses (h : SampleRow m op) (l : Literal) (hl : l.isSample = false) :
    assembleItem (.command m l) = .error .outOfRange :=
  assembleItem_of_not_wellFormed _ ((h.range l).trans hl)

/-- A code in range assembles to its value under the row's op value. -/
theorem CodeRow.assembles (h : CodeRow m op hi) (l : Literal) (hl : l.isUpTo hi.toNat = true)
    (hv : (Literal.value l : Int) ≤ hi) :
    ∃ w : CmdWord, assembleItem (.command m l) = .ok (.cmd w) ∧
      (w.toNat : Int) = op * 65536 + Literal.value l ∧ w.canonical = true ∧ decode w = Mnemonic.instr m l :=
  command_assembles m l ((h.range l).trans hl) op _ (h.op_eq l) (by rw [h.din_eq l hv])

/-- A code out of range is refused. -/
theorem CodeRow.refuses (h : CodeRow m op hi) (l : Literal) (hl : l.isUpTo hi.toNat = false) :
    assembleItem (.command m l) = .error .outOfRange :=
  assembleItem_of_not_wellFormed _ ((h.range l).trans hl)

end Rows

theorem sampleRow_of_mem : ∀ r ∈ [(Mnemonic.alawEnc, (0 : Int)), (.ulawEnc, 2), (.adpcmEnc, 4)], SampleRow r.1 r.2 := by
  simp only [List.forall_mem_cons, List.not_mem_nil, false_implies, implies_true, and_true]
  exact ⟨⟨fun _ => rfl, fun _ => rfl, fun _ => rfl⟩, ⟨fun _ => rfl, fun _ => rfl, fun _ => rfl⟩,
    ⟨fun _ => rfl, fun _ => rfl, fun _ => rfl⟩⟩

theorem toNat_setWidth_ofNat (n v : Nat) (hn : n ≤ 16) (hv : v < 2 ^ n) :
    ((BitVec.ofNat n v).setWidth 16).toNat = v := by
  rw [BitVec.toNat_setWidth_of_le hn, BitVec.toNat_ofNat, Nat.mod_eq_of_lt hv]

theorem codeRow_of_mem :
    ∀ r ∈ [(Mnemonic.alawDec, (1 : Int), (255 : Int)), (.ulawDec, 3, 255), (.adpcmDec, 5, 15)],
      CodeRow r.1 r.2.1 r.2.2 := by
  simp only [List.forall_mem_cons, List.not_mem_nil, false_implies, implies_true, and_true]
  exact ⟨⟨by decide, fun _ => rfl, fun _ => rfl, fun _ h => toNat_setWidth_ofNat 8 _ (by decide) (by omega)⟩,
    ⟨by decide, fun _ => rfl, fun _ => rfl, fun _ h => toNat_setWidth_ofNat 8 _ (by decide) (by omega)⟩,
    ⟨by decide, fun _ => rfl, fun _ => rfl, fun _ h => toNat_setWidth_ofNat 4 _ (by decide) (by omega)⟩⟩

/-- The lines just outside each range are refused as text. -/
theorem lines_outside_range_refused :
    ∀ line ∈ ["alaw.enc 32768", "alaw.enc -32769", "alaw.enc 0x10000", "alaw.dec 256", "alaw.dec -1", "alaw.dec 0x100",
      "ulaw.enc 32768", "ulaw.enc -32769", "ulaw.enc 0x10000", "ulaw.dec 256", "ulaw.dec -1", "ulaw.dec 0x100",
      "adpcm.enc 32768", "adpcm.enc -32769", "adpcm.enc 0x10000", "adpcm.dec 16", "adpcm.dec -1", "adpcm.dec 0x10"],
    assemble line.toList = .error (1, .outOfRange) := by
  simp only [List.forall_mem_cons, List.not_mem_nil, false_implies, implies_true, and_true]
  exact ⟨rfl, rfl, rfl, rfl, rfl, rfl, rfl, rfl, rfl, rfl, rfl, rfl, rfl, rfl, rfl, rfl, rfl, rfl⟩

/-- Settles O7, by the row of each mnemonic: its range decides whether the literal is accepted, and an accepted one gives the
canonical word of its command. -/
theorem assemblerWritesCanonicalWords : Obligations.AssemblerWritesCanonicalWords := by
  unfold Obligations.AssemblerWritesCanonicalWords
  refine ⟨fun r hr => ?_, fun r hr => ?_, lines_outside_range_refused, fun v => ⟨fun hv => ?_, fun hv => ?_⟩⟩
  · have hrow := sampleRow_of_mem r hr
    refine ⟨fun v h1 h2 => ?_, fun v hv => ?_, fun v hv => ?_, fun v hv => ?_⟩
    · simpa only [toNat_bits16_dec] using hrow.assembles (.dec v) (decide_eq_true ⟨h1, h2⟩)
    · exact hrow.refuses (.dec v) (decide_eq_false (by omega))
    · simpa only [toNat_bits16_hex v hv] using hrow.assembles (.hex v) (decide_eq_true hv)
    · exact hrow.refuses (.hex v) (decide_eq_false (by omega))
  · have hrow := codeRow_of_mem r hr
    have hhi := hrow.hi_nonneg
    refine ⟨fun v h1 h2 => ?_, fun v hv => ?_, fun v hv => ?_, fun v hv => ?_⟩
    · have hval : ((Literal.value (.dec v) : Nat) : Int) = v := Int.toNat_of_nonneg h1
      simpa only [hval] using hrow.assembles (.dec v) (decide_eq_true ⟨h1, by omega⟩) (by omega)
    · exact hrow.refuses (.dec v) (decide_eq_false (by omega))
    · exact hrow.assembles (.hex v) (decide_eq_true (by omega)) hv
    · exact hrow.refuses (.hex v) (decide_eq_false (by omega))
  · refine ⟨BitVec.ofNat 19 v, assembleItem_rawWord v hv, ?_⟩
    rw [BitVec.toNat_ofNat]
    omega
  · exact assembleItem_of_not_wellFormed _ (decide_eq_false (by omega))

/-- Settles O1: each line is read by the assembler as it stands. -/
theorem workedEncodingsAssemble : Obligations.WorkedEncodingsAssemble := by
  unfold Obligations.WorkedEncodingsAssemble
  exact ⟨rfl, rfl, rfl, rfl, rfl, rfl, rfl, rfl⟩

/-! ### The directive -/

/-- A state word is its predictor shifted over its index (R70). -/
theorem packSt_eq_shift (p : BitVec 16) (i : BitVec 8) : packSt p i = (p.setWidth 24 <<< 8) ||| i.setWidth 24 := by
  rw [← BitVec.setWidth_append_eq_shiftLeft_setWidth_or, BitVec.setWidth_eq, packSt]

theorem value_le_of_isUpTo (l : Literal) (hi : Nat) (h : l.isUpTo hi = true) : Literal.value l ≤ hi := by
  cases l with
  | dec v =>
    have hv : 0 ≤ v ∧ v ≤ hi := of_decide_eq_true h
    exact Int.toNat_le.2 hv.2
  | hex v => exact of_decide_eq_true h

/-- Settles O15: the item holds the literals' bits, and a step on it packs them. -/
theorem stateDirectiveSetsStream : Obligations.StateDirectiveSetsStream := by
  unfold Obligations.StateDirectiveSetsStream
  intro s lp li hp hi
  refine ⟨_, assembleItem_state lp li hp hi, fun hr hget => ?_⟩
  have hidx : (BitVec.ofNat 8 (Literal.value li)).setWidth 24 = BitVec.ofNat 24 (Literal.value li) :=
    BitVec.setWidth_ofNat_of_le_of_lt (by decide) (Nat.lt_succ_of_le (value_le_of_isUpTo li 255 hi))
  rw [step_of_state s _ _ hr hget, setStream, packSt_eq_shift, hidx]

end Sys2Proof.Machine
end

section
/-! The text of the assembler and the disassembler (R67 to R69): the numbers the one prints are the literals the other reads, and
a line of two words is read as its two words. -/

namespace Sys2Proof.Machine

/-! ### Characters that are part of a word -/

/-- A character that neither parts words nor lines nor begins a comment. -/
def wordChar (c : Char) : Bool := !isBlank c && c != ',' && c != ';' && c != '\n'

/-- A text of such characters, at least one. -/
def PlainWord (w : List Char) : Prop := w ≠ [] ∧ ∀ c ∈ w, wordChar c = true

theorem wordChar_iff (c : Char) : wordChar c = true ↔ isBlank c = false ∧ c ≠ ',' ∧ c ≠ ';' ∧ c ≠ '\n' := by
  simp [wordChar, and_assoc]

theorem wordChar_digitChar : ∀ d < 16, wordChar (digitChar d) = true := by decide

theorem wordChar_hexText (width n : Nat) : ∀ c ∈ hexText width n, wordChar c = true := by
  induction width generalizing n with
  | zero => simp [hexText]
  | succ width ih =>
    rw [hexText, List.forall_mem_append, List.forall_mem_singleton]
    exact ⟨ih (n / 16), wordChar_digitChar _ (Nat.mod_lt n (by decide))⟩

theorem wordChar_decTextFuel (fuel n : Nat) : ∀ c ∈ decTextFuel fuel n, wordChar c = true := by
  induction fuel generalizing n with
  | zero => simp [decTextFuel]
  | succ fuel ih =>
    rw [decTextFuel]
    split
    · rw [List.forall_mem_singleton]
      exact wordChar_digitChar n (by omega)
    · rw [List.forall_mem_append, List.forall_mem_singleton]
      exact ⟨ih (n / 10), wordChar_digitChar _ (by omega)⟩

theorem plainWord_upperMnemonic (m : Mnemonic) : PlainWord (upperMnemonic m) := by
  cases m <;> exact ⟨List.cons_ne_nil _ _, List.all_eq_true.1 rfl⟩

theorem plainWord_wordText : PlainWord wordText := ⟨List.cons_ne_nil _ _, List.all_eq_true.1 rfl⟩

theorem plainWord_hex (width n : Nat) : PlainWord (hexMark ++ hexText width n) :=
  ⟨List.cons_ne_nil _ _, List.forall_mem_append.2 ⟨List.all_eq_true.1 rfl, wordChar_hexText width n⟩⟩

theorem decTextFuel_ne_nil (fuel n : Nat) : decTextFuel (fuel + 1) n ≠ [] := by
  rw [decTextFuel]
  split <;> simp

theorem plainWord_decText (v : Int) : PlainWord (decText v) := by
  have hne := decTextFuel_ne_nil 4 v.natAbs
  have hchars := wordChar_decTextFuel 5 v.natAbs
  unfold decText
  split
  · exact ⟨List.cons_ne_nil _ _, List.forall_mem_cons.2 ⟨rfl, hchars⟩⟩
  · exact ⟨hne, hchars⟩

/-! ### Printed numbers are read back -/

theorem hexDigit_digitChar : ∀ d < 16, hexDigit (digitChar d) = some d := by decide

theorem decDigit_digitChar : ∀ d < 10, decDigit (digitChar d) = some d := by decide

/-- A digit after a text is read after it. -/
theorem readDigits_concat (base : Nat) (digit : Char → Option Nat) (acc a d : Nat) (cs : List Char) (c : Char)
    (hcs : readDigits base digit acc cs = some a) (hc : digit c = some d) :
    readDigits base digit acc (cs ++ [c]) = some (a * base + d) := by
  induction cs generalizing acc with
  | nil =>
    cases hcs
    simp [readDigits, hc]
  | cons e cs ih =>
    rw [List.cons_append, readDigits]
    rw [readDigits] at hcs
    cases he : digit e with
    | none => simp [he] at hcs
    | some f =>
      rw [he] at hcs
      exact ih _ hcs

/-- A number of at most `width` hexadecimal digits is read back. -/
theorem readDigits_hexText (width n : Nat) (h : n < 16 ^ width) :
    readDigits 16 hexDigit 0 (hexText width n) = some n := by
  induction width generalizing n with
  | zero =>
    obtain rfl : n = 0 := by simpa using h
    rfl
  | succ width ih =>
    have hread := ih (n / 16) (by rw [Nat.pow_succ] at h; omega)
    have hdigit := hexDigit_digitChar (n % 16) (Nat.mod_lt n (by decide))
    rw [hexText, readDigits_concat 16 hexDigit 0 _ _ _ _ hread hdigit, Nat.div_add_mod']

/-- A number of at most `fuel` decimal digits is read back. -/
theorem readDigits_decTextFuel (fuel n : Nat) (h : n < 10 ^ (fuel + 1)) :
    readDigits 10 decDigit 0 (decTextFuel (fuel + 1) n) = some n := by
  induction fuel generalizing n with
  | zero =>
    have hn : n < 10 := by simpa using h
    simp [decTextFuel, hn, readDigits, decDigit_digitChar n hn]
  | succ fuel ih =>
    rw [decTextFuel]
    split
    case isTrue hn => simp [readDigits, decDigit_digitChar n hn]
    case isFalse =>
      have hread := ih (n / 10) (by rw [Nat.pow_succ] at h; omega)
      have hdigit := decDigit_digitChar (n % 10) (Nat.mod_lt n (by decide))
      rw [readDigits_concat 10 decDigit 0 _ _ _ _ hread hdigit, Nat.div_add_mod']

theorem readNumber_of_ne_nil (base : Nat) (digit : Char → Option Nat) (cs : List Char) (h : cs ≠ []) :
    readNumber base digit cs = readDigits base digit 0 cs := by
  cases cs with
  | nil => exact absurd rfl h
  | cons c cs => rfl

theorem readNumber_decTextFuel (n : Nat) (h : n < 100000) : readNumber 10 decDigit (decTextFuel 5 n) = some n := by
  rw [readNumber_of_ne_nil _ _ _ (decTextFuel_ne_nil 4 n), readDigits_decTextFuel 4 n h]

/-- A text of decimal digits begins with neither `0x` nor `-`, so it is a decimal literal. -/
theorem readLiteral_of_decimal (cs : List Char) (n : Nat) (h : readNumber 10 decDigit cs = some n) :
    readLiteral cs = some (.dec n) := by
  unfold readLiteral
  split
  case h_1 => simp [readNumber, readDigits, decDigit] at h
  case h_2 => simp [readNumber, readDigits, decDigit] at h
  case h_3 => simp [h]

/-- A printed decimal operand is read back as its value. -/
theorem readLiteral_decText (v : Int) (h : v.natAbs < 100000) : readLiteral (decText v) = some (.dec v) := by
  have hread := readNumber_decTextFuel v.natAbs h
  unfold decText
  split
  case isTrue hneg => simp [readLiteral, hread, abs_of_neg hneg]
  case isFalse hpos =>
    have habs : (v.natAbs : Int) = v := by omega
    rw [readLiteral_of_decimal _ _ hread, habs]

/-- A printed hexadecimal operand is read back as its value. -/
theorem readLiteral_hex (width n : Nat) (h : n < 16 ^ (width + 1)) :
    readLiteral (hexMark ++ hexText (width + 1) n) = some (.hex n) := by
  have hne : hexText (width + 1) n ≠ [] := by simp [hexText]
  have hread : readNumber 16 hexDigit (hexText (width + 1) n) = some n := by
    rw [readNumber_of_ne_nil _ _ _ hne, readDigits_hexText _ _ h]
  exact congrArg (Option.map Literal.hex) hread

/-- A printed mnemonic is read back, since letter case does not matter (R67). -/
theorem readMnemonic_upperMnemonic (m : Mnemonic) : readMnemonic (upperMnemonic m) = some m := by
  cases m <;> rfl

/-! ### Lines of two words -/

/-- A plain text is gathered into the word being read. -/
theorem splitWords_append (acc w rest : List Char) (hw : ∀ c ∈ w, wordChar c = true) :
    splitWords acc (w ++ rest) = splitWords (acc ++ w) rest := by
  induction w generalizing acc with
  | nil => simp
  | cons c w ih =>
    obtain ⟨hc, hrest⟩ := List.forall_mem_cons.1 hw
    obtain ⟨hblank, hcomma, -, -⟩ := (wordChar_iff c).1 hc
    rw [List.cons_append, splitWords, if_neg (by simp [hblank]), if_neg (by simp [hcomma]), ih _ hrest]
    simp

theorem splitWords_of_plain (w : List Char) (hw : PlainWord w) : splitWords [] w = [w] := by
  obtain ⟨hne, hchars⟩ := hw
  simpa [splitWords, hne] using splitWords_append [] w [] hchars

/-- A space ends a word. -/
theorem splitWords_space (w rest : List Char) (hw : PlainWord w) :
    splitWords [] (w ++ ' ' :: rest) = w :: splitWords [] rest := by
  obtain ⟨hne, hchars⟩ := hw
  simp [splitWords_append [] w _ hchars, splitWords, isBlank, hne]

theorem dropComment_append (w rest : List Char) (hw : ∀ c ∈ w, wordChar c = true) :
    dropComment (w ++ rest) = w ++ dropComment rest := by
  refine List.takeWhile_append_of_pos fun c hc => ?_
  obtain ⟨-, -, hsemi, -⟩ := (wordChar_iff c).1 (hw c hc)
  simpa using hsemi

/-- Nothing, or a space and a comment: what may follow the last word of a printed line. -/
def CommentTail (tail : List Char) : Prop := tail = [] ∨ ∃ cs, tail = ' ' :: ';' :: cs ∧ '\n' ∉ cs

/-- A line of two plain words, with or without a comment, is read as the two words. -/
theorem lineWords_two (w o tail : List Char) (hw : PlainWord w) (ho : PlainWord o) (ht : CommentTail tail) :
    lineWords (w ++ ' ' :: (o ++ tail)) = [w, o] := by
  have hdrop : dropComment (w ++ ' ' :: (o ++ tail)) = w ++ ' ' :: (o ++ dropComment tail) := by
    rw [dropComment_append w _ hw.2, ← dropComment_append o _ ho.2]
    rfl
  rw [lineWords, hdrop, splitWords_space w _ hw]
  obtain rfl | ⟨cs, rfl, -⟩ := ht
  · simpa [dropComment] using splitWords_of_plain o ho
  · exact congrArg (w :: ·) (splitWords_space o [] ho)

/-- A text without a line feed is one line. -/
theorem splitLines_of_not_mem (acc l : List Char) (h : '\n' ∉ l) : splitLines acc l = [acc ++ l] := by
  induction l generalizing acc with
  | nil => simp [splitLines]
  | cons c l ih =>
    obtain ⟨hc, hl⟩ := not_or.1 (List.mem_cons.not.1 h)
    rw [splitLines, if_neg (by simpa using Ne.symm hc), ih _ hl]
    simp

theorem lf_not_mem_plain (w : List Char) (hw : PlainWord w) : '\n' ∉ w := fun hmem =>
  ((wordChar_iff _).1 (hw.2 _ hmem)).2.2.2 rfl

theorem lf_not_mem_two (w o tail : List Char) (hw : PlainWord w) (ho : PlainWord o) (ht : CommentTail tail) :
    '\n' ∉ w ++ ' ' :: (o ++ tail) := by
  have htail : '\n' ∉ tail := by
    obtain rfl | ⟨cs, rfl, hcs⟩ := ht
    · exact List.not_mem_nil
    · simpa using hcs
  simpa using ⟨lf_not_mem_plain w hw, lf_not_mem_plain o ho, htail⟩

/-- A line of two plain words assembles to the item its two words say. -/
theorem assemble_two (w o tail : List Char) (t : SrcItem) (item : Item) (hw : PlainWord w) (ho : PlainWord o)
    (ht : CommentTail tail) (hread : readOneOperand w o = .ok t) (hitem : assembleItem t = .ok item) :
    assemble (w ++ ' ' :: (o ++ tail)) = .ok [item] := by
  have hline : readLine (w ++ ' ' :: (o ++ tail)) = .ok (some t) := by
    rw [readLine, lineWords_two w o tail hw ho ht]
    simp [hread, Except.map]
  rw [assemble, splitLines_of_not_mem [] _ (lf_not_mem_two w o tail hw ho ht), List.nil_append]
  simp [assembleLines, assembleLine, hline, hitem, Except.map]

/-! ### The disassembly of a word -/

/-- `m` with the operand text `o` is how the command `i` is printed, and the assembler reads that as `i`. -/
structure PrintedAs (i : Instr) (m : Mnemonic) (o : List Char) (l : Literal) : Prop where
  text : commandText i = upperMnemonic m ++ ' ' :: o
  plain : PlainWord o
  read : readLiteral o = some l
  range : m.operandOk l = true
  instr : Mnemonic.instr m l = i

theorem ofNat_toNat_self {n : Nat} (c : BitVec n) : BitVec.ofNat n c.toNat = c :=
  (BitVec.ofNat_toNat n c).trans (BitVec.setWidth_eq c)

/-- The decimal text of a sample is a literal of that sample. -/
theorem sample_literal (x : Sample) : readLiteral (decText x.toInt) = some (.dec x.toInt) ∧
    Literal.isSample (.dec x.toInt) = true ∧ Literal.bits16 (.dec x.toInt) = x := by
  have hlow : -32768 ≤ x.toInt := BitVec.le_toInt x
  have hhigh : x.toInt < 32768 := BitVec.toInt_lt
  exact ⟨readLiteral_decText _ (by omega), decide_eq_true ⟨hlow, by omega⟩, BitVec.ofInt_toInt⟩

/-- The hexadecimal text of an 8-bit code is a literal of that code. -/
theorem code8_literal (c : Code8) : readLiteral (hexMark ++ hexText 2 c.toNat) = some (.hex c.toNat) ∧
    Literal.isUpTo 255 (.hex c.toNat) = true ∧ BitVec.ofNat 8 (Literal.value (.hex c.toNat)) = c := by
  have hlt : c.toNat < 256 := c.isLt
  exact ⟨readLiteral_hex 1 _ hlt, decide_eq_true (by omega), ofNat_toNat_self c⟩

/-- Every command that is not reserved is printed as its mnemonic and an operand that reads back as its own (R69). -/
theorem exists_printedAs (i : Instr) (h : reservedOp i.op = false) : ∃ m o l, PrintedAs i m o l := by
  cases i with
  | alawEnc x =>
    obtain ⟨hread, hrange, hbits⟩ := sample_literal x
    exact ⟨.alawEnc, _, _, rfl, plainWord_decText _, hread, hrange, congrArg Instr.alawEnc hbits⟩
  | ulawEnc x =>
    obtain ⟨hread, hrange, hbits⟩ := sample_literal x
    exact ⟨.ulawEnc, _, _, rfl, plainWord_decText _, hread, hrange, congrArg Instr.ulawEnc hbits⟩
  | adpcmEnc x =>
    obtain ⟨hread, hrange, hbits⟩ := sample_literal x
    exact ⟨.adpcmEnc, _, _, rfl, plainWord_decText _, hread, hrange, congrArg Instr.adpcmEnc hbits⟩
  | alawDec c =>
    obtain ⟨hread, hrange, hbits⟩ := code8_literal c
    exact ⟨.alawDec, _, _, rfl, plainWord_hex 2 _, hread, hrange, congrArg Instr.alawDec hbits⟩
  | ulawDec c =>
    obtain ⟨hread, hrange, hbits⟩ := code8_literal c
    exact ⟨.ulawDec, _, _, rfl, plainWord_hex 2 _, hread, hrange, congrArg Instr.ulawDec hbits⟩
  | adpcmDec c =>
    have hc : c.toNat < 16 := c.isLt
    exact ⟨.adpcmDec, _, _, rfl, plainWord_decText _, readLiteral_decText _ (by omega), decide_eq_true (by omega),
      congrArg Instr.adpcmDec (ofNat_toNat_self c)⟩
  | reservedOp110 => cases h
  | reservedOp111 => cases h

/-- The comment of a word with nonzero ignored bits ends at the end of the line. -/
theorem commentTail_of_word (w : CmdWord) : CommentTail (if w.canonical then [] else ignoredComment w) := by
  split
  · exact .inl rfl
  · refine .inr ⟨_, rfl, ?_⟩
    have hhex : '\n' ∉ hexText 4 w.din.toNat := fun hmem =>
      ((wordChar_iff _).1 (wordChar_hexText _ _ _ hmem)).2.2.2 rfl
    simpa [hexMark] using hhex

/-- A reserved word is printed whole and copied back as it stands. -/
theorem assemble_disassemble_reserved (w : CmdWord) (h : reservedOp w.op = true) :
    assemble (disassemble w) = .ok [.cmd w] := by
  have hlt : w.toNat < 524288 := w.isLt
  have hread : readLiteral (hexMark ++ hexText 5 w.toNat) = some (.hex w.toNat) := readLiteral_hex 4 _ (by omega)
  have hone : readOneOperand wordText (hexMark ++ hexText 5 w.toNat) = .ok (.rawWord w.toNat) := by
    simp [readOneOperand, hread, show readMnemonic wordText = none from rfl]
  have hitem : assembleItem (.rawWord w.toNat) = .ok (.cmd w) := by
    rw [assembleItem_rawWord _ hlt, ofNat_toNat_self]
  rw [disassemble, if_pos (of_decide_eq_true h), ← List.append_nil (hexMark ++ hexText 5 w.toNat)]
  exact assemble_two _ _ [] _ _ plainWord_wordText (plainWord_hex 5 _) (.inl rfl) hone hitem

/-- Any other word is printed as its command, which assembles to the canonical word. -/
theorem assemble_disassemble_command (w : CmdWord) (h : reservedOp w.op = false) :
    assemble (disassemble w) = .ok [.cmd (encode (decode w))] := by
  obtain ⟨m, o, l, hp⟩ := exists_printedAs (decode w) (by rw [op_decode, h])
  have hone : readOneOperand (upperMnemonic m) o = .ok (.command m l) := by
    simp [readOneOperand, readMnemonic_upperMnemonic, hp.read]
  have hitem : assembleItem (.command m l) = .ok (.cmd (encode (decode w))) := by
    rw [assembleItem_command m l hp.range, hp.instr]
  rw [disassemble, if_neg (of_decide_eq_false h), hp.text, List.append_assoc, List.cons_append]
  exact assemble_two _ _ _ _ _ (plainWord_upperMnemonic m) hp.plain (commentTail_of_word w) hone hitem

/-- Settles O8, by whether the op is reserved. -/
theorem disassemblyAssemblesBack : Obligations.DisassemblyAssemblesBack := by
  unfold Obligations.DisassemblyAssemblesBack
  intro w
  cases h : reservedOp w.op with
  | true => simpa using assemble_disassemble_reserved w h
  | false => simpa using assemble_disassemble_command w h

end Sys2Proof.Machine
end

section
/-! What both G.711 laws share: the byte and its fields (R84, R85, R105, R106), and the magnitude that NEG_MAG gives a sample
(R81, R91, R101, R112). -/

namespace Sys2Proof.Machine

/-! ### The byte and its fields -/

/-- The three fields of a raw byte do not overlap, so joining them by OR adds them (R84, R105). -/
theorem or_shifted_fields (sign seg m : Nat) (hseg : seg < 8) (hm : m < 16) :
    (sign <<< 7 ||| seg <<< 4) ||| m = sign * 128 + seg * 16 + m := by
  have hfields : sign <<< 7 ||| seg <<< 4 = (sign <<< 3 + seg) <<< 4 := by
    rw [Nat.shiftLeft_add_eq_or_of_lt (i := 3) hseg, Nat.shiftLeft_or_distrib, ← Nat.shiftLeft_add]
  rw [hfields, ← Nat.shiftLeft_add_eq_or_of_lt (i := 4) hm]
  omega

/-- The raw byte as a number. -/
theorem toNat_rawByte (sign : Bool) (seg m : Nat) (hseg : seg < 8) (hm : m < 16) :
    (rawByte sign seg m).toNat = sign.toNat * 128 + seg * 16 + m := by
  have hs : sign.toNat < 2 := sign.toNat_lt
  rw [rawByte, or_shifted_fields _ _ _ hseg hm, BitVec.toNat_ofNat]
  omega

/-- The byte of the statements is the byte that the model's packers build (R84, R105). -/
theorem maskedByte_eq_rawByte_xor (mask : Code8) (sign : Bool) (seg m : Nat) (hseg : seg < 8) (hm : m < 16) :
    maskedByte mask sign seg m = rawByte sign seg m ^^^ mask := by
  have hraw : BitVec.ofBool sign ++ BitVec.ofNat 3 seg ++ BitVec.ofNat 4 m = rawByte sign seg m := by
    apply BitVec.eq_of_toNat_eq
    rw [toNat_rawByte sign seg m hseg hm, BitVec.toNat_append, BitVec.toNat_append, BitVec.toNat_ofNat,
      BitVec.toNat_ofNat, Nat.mod_eq_of_lt hseg, Nat.mod_eq_of_lt hm, Nat.shiftLeft_or_distrib, ← Nat.shiftLeft_add,
      BitVec.toNat_ofBool]
    exact or_shifted_fields _ _ _ hseg hm
  exact congrArg (· ^^^ mask) hraw

theorem toNat_rawSign (r : Code8) : (rawSign r).toNat = r.toNat / 128 := by
  have hr : r.toNat < 256 := r.isLt
  rw [rawSign, BitVec.getLsbD, Nat.toNat_testBit]
  omega

theorem rawSegment_eq (r : Code8) : rawSegment r = r.toNat / 16 % 8 := by
  rw [rawSegment, BitVec.extractLsb'_toNat, Nat.shiftRight_eq_div_pow]

theorem rawMantissa_eq (r : Code8) : rawMantissa r = r.toNat % 16 := by
  rw [rawMantissa, BitVec.extractLsb'_toNat, Nat.shiftRight_zero]

/-- Unpacking a raw byte gives the fields it was packed from (R85, R106). -/
theorem rawFields_rawByte (sign : Bool) (seg m : Nat) (hseg : seg < 8) (hm : m < 16) :
    rawSign (rawByte sign seg m) = sign ∧ rawSegment (rawByte sign seg m) = seg ∧
      rawMantissa (rawByte sign seg m) = m := by
  have hs : (rawSign (rawByte sign seg m)).toNat = sign.toNat := by
    rw [toNat_rawSign, toNat_rawByte _ _ _ hseg hm]
    omega
  rw [rawSegment_eq, rawMantissa_eq, toNat_rawByte _ _ _ hseg hm]
  exact ⟨by rw [← Bool.ofNat_toNat (rawSign _), hs, Bool.ofNat_toNat], by omega, by omega⟩

/-- A raw byte has no bits but those of its fields. -/
theorem rawByte_rawFields (r : Code8) : rawByte (rawSign r) (rawSegment r) (rawMantissa r) = r := by
  apply BitVec.eq_of_toNat_eq
  rw [toNat_rawByte _ _ _ (rawSegment_lt r) (rawMantissa_lt r), toNat_rawSign, rawSegment_eq, rawMantissa_eq]
  omega

theorem maskedByte_xor_mask (mask : Code8) (sign : Bool) (seg m : Nat) (hseg : seg < 8) (hm : m < 16) :
    maskedByte mask sign seg m ^^^ mask = rawByte sign seg m := by
  rw [maskedByte_eq_rawByte_xor mask sign seg m hseg hm, BitVec.xor_assoc, BitVec.xor_self, BitVec.xor_zero]

/-- Every code is the masked byte of its fields (R85, R106). -/
theorem exists_eq_maskedByte (mask c : Code8) :
    ∃ (sign : Bool) (seg m : Nat), seg < 8 ∧ m < 16 ∧ c = maskedByte mask sign seg m := by
  refine ⟨rawSign (c ^^^ mask), _, _, rawSegment_lt (c ^^^ mask), rawMantissa_lt (c ^^^ mask), ?_⟩
  rw [maskedByte_eq_rawByte_xor _ _ _ _ (rawSegment_lt _) (rawMantissa_lt _), rawByte_rawFields,
    BitVec.xor_assoc, BitVec.xor_self, BitVec.xor_zero]

theorem maskedByte_fields_inj (mask : Code8) (sign : Bool) (seg m seg' m' : Nat)
    (hseg : seg < 8) (hm : m < 16) (hseg' : seg' < 8) (hm' : m' < 16)
    (h : maskedByte mask sign seg m = maskedByte mask sign seg' m') : seg = seg' ∧ m = m' := by
  have hraw : rawByte sign seg m = rawByte sign seg' m' := by
    rw [← maskedByte_xor_mask mask _ _ _ hseg hm, h, maskedByte_xor_mask mask _ _ _ hseg' hm']
  obtain ⟨-, h1, h2⟩ := rawFields_rawByte sign seg m hseg hm
  obtain ⟨-, h1', h2'⟩ := rawFields_rawByte sign seg' m' hseg' hm'
  exact ⟨by rw [← h1, hraw, h1'], by rw [← h2, hraw, h2']⟩

/-- Flipping bit 7 of a code flips its sign and keeps its other fields (R90, R111). -/
theorem maskedByte_xor_0x80 (mask : Code8) (sign : Bool) (seg m : Nat) :
    maskedByte mask sign seg m ^^^ 0x80#8 = maskedByte mask (!sign) seg m := by
  have hflip : BitVec.ofBool sign ++ BitVec.ofNat 3 seg ++ BitVec.ofNat 4 m ^^^ 0x80#8 =
      BitVec.ofBool (!sign) ++ BitVec.ofNat 3 seg ++ BitVec.ofNat 4 m := by
    rw [show 0x80#8 = 1#1 ++ 0#3 ++ 0#4 from rfl, BitVec.xor_append, BitVec.xor_append]
    cases sign <;> simp
  unfold maskedByte
  rw [BitVec.xor_assoc, BitVec.xor_comm mask, ← BitVec.xor_assoc, hflip]

/-! ### The sign -/

@[simp] theorem applySign_true (mag : Nat) : applySign true mag = -(mag : Int) := rfl

@[simp] theorem applySign_false (mag : Nat) : applySign false mag = (mag : Int) := rfl

theorem decide_nonneg_applySign (negative : Bool) (mag : Nat) (h : 0 < mag) :
    decide (0 ≤ applySign negative mag) = !negative := by
  cases negative with
  | false => exact decide_eq_true (Int.natCast_nonneg mag)
  | true => exact decide_eq_false (by rw [applySign_true]; omega)

/-! ### The magnitude under NEG_MAG -/

/-- Rounding a negative number down rounds its magnitude up (R13). -/
theorem neg_ediv_eq_neg_ceil (scale a : Nat) (hs : 0 < scale) :
    -(a : Int) / (scale : Int) = -(((a + (scale - 1)) / scale : Nat) : Int) := by
  generalize hq : (a + (scale - 1)) / scale = q
  obtain ⟨hlow, hhigh⟩ := (Nat.div_eq_iff hs).1 hq
  rw [Int.ediv_eq_iff_of_pos (by omega), Int.neg_mul, ← Int.natCast_mul]
  omega

theorem encodedMagnitude_of_nonneg (n : NegMag) (scale : Nat) (x : Int) (hx : 0 ≤ x) :
    encodedMagnitude n scale x = x.natAbs := if_pos hx

section Negative

variable (scale : Nat) (x : Int) (hx : x < 0)
include hx

theorem encodedMagnitude_onesComplement_of_neg : encodedMagnitude .onesComplement scale x = x.natAbs - 1 :=
  if_neg (Int.not_le.2 hx)

theorem encodedMagnitude_absolute_of_neg : encodedMagnitude .absolute scale x = min x.natAbs 32767 :=
  if_neg (Int.not_le.2 hx)

theorem encodedMagnitude_shiftThenNegate_of_neg :
    encodedMagnitude .shiftThenNegate scale x = min (scale * ((x.natAbs + (scale - 1)) / scale)) 32767 :=
  if_neg (Int.not_le.2 hx)

end Negative

/-- For a 16-bit sample the clipped magnitude of R81 and R101 is the magnitude of R91 and R112. -/
theorem clippedMagnitude_eq (n : NegMag) (scale : Nat) (hs : 0 < scale) (x : Sample) :
    clippedMagnitude n scale x.toInt = encodedMagnitude n scale x.toInt := by
  have hlow : -32768 ≤ x.toInt := BitVec.le_toInt x
  have hhigh : x.toInt < 32768 := BitVec.toInt_lt
  generalize x.toInt = x at *
  by_cases hx : 0 ≤ x
  · rw [clippedMagnitude, if_pos hx, encodedMagnitude_of_nonneg n scale x hx]
    omega
  · have hneg : x < 0 := Int.not_le.1 hx
    rw [clippedMagnitude, if_neg hx]
    cases n with
    | onesComplement =>
      rw [encodedMagnitude_onesComplement_of_neg scale x hneg, negMagnitude]
      omega
    | absolute =>
      rw [encodedMagnitude_absolute_of_neg scale x hneg, negMagnitude]
      omega
    | shiftThenNegate =>
      have hceil := neg_ediv_eq_neg_ceil scale x.natAbs hs
      rw [show -(x.natAbs : Int) = x by omega] at hceil
      rw [encodedMagnitude_shiftThenNegate_of_neg scale x hneg, negMagnitude, hceil, Int.mul_neg, neg_neg,
        ← Int.natCast_mul, Int.toNat_natCast]

theorem encodedMagnitude_lt (n : NegMag) (scale : Nat) (hs : 0 < scale) (x : Sample) :
    encodedMagnitude n scale x.toInt < 32768 :=
  clippedMagnitude_eq n scale hs x ▸ Nat.lt_succ_of_le (clippedMagnitude_le n scale x.toInt)

end Sys2Proof.Machine
end

section
/-! The A-law intervals between the decision thresholds (R92): their order, and that the segment detector and the mantissa
extractor (R82, R83) find the one interval which holds a magnitude. -/

namespace Sys2Proof.Machine

/-! ### The order of the intervals -/

@[simp] theorem alawL_zero (m : Nat) : alawL 0 m = 16 * m := rfl

@[simp] theorem alawW_zero : alawW 0 = 16 := rfl

@[simp] theorem alawL_succ (k m : Nat) : alawL (k + 1) m = (16 + m) * 2 ^ (k + 4) := if_neg k.succ_ne_zero

@[simp] theorem alawW_succ (k : Nat) : alawW (k + 1) = 2 ^ (k + 4) := if_neg k.succ_ne_zero

/-- All widths are multiples of 16, since the smallest is 16. -/
theorem dvd_alawW (seg : Nat) : 16 ∣ alawW seg := by
  cases seg with
  | zero => exact dvd_rfl
  | succ k => rw [alawW_succ, Nat.add_comm]; exact pow_dvd_pow 2 (Nat.le_add_right 4 k)

theorem alawW_pos (seg : Nat) : 0 < alawW seg := by
  cases seg with
  | zero => decide
  | succ k => rw [alawW_succ]; positivity

theorem dvd_alawL (seg m : Nat) : 16 ∣ alawL seg m := by
  cases seg with
  | zero => exact dvd_mul_right 16 m
  | succ k => rw [alawL_succ, ← alawW_succ]; exact (dvd_alawW _).mul_left _

/-- Segment `seg` ends at `2 ^ (seg + 8)`. -/
theorem alawL_add_alawW_le (seg m : Nat) (hm : m < 16) : alawL seg m + alawW seg ≤ 2 ^ (seg + 8) := by
  cases seg with
  | zero => rw [alawL_zero, alawW_zero]; omega
  | succ k =>
    calc alawL (k + 1) m + alawW (k + 1) = (17 + m) * 2 ^ (k + 4) := by rw [alawL_succ, alawW_succ]; ring
      _ ≤ 32 * 2 ^ (k + 4) := Nat.mul_le_mul_right _ (by omega)
      _ = 2 ^ (k + 1 + 8) := by ring

/-- Every segment but the first begins where the one before ends. -/
theorem pow_le_alawL_succ (k m : Nat) : 2 ^ (k + 8) ≤ alawL (k + 1) m :=
  calc 2 ^ (k + 8) = 16 * 2 ^ (k + 4) := by ring
    _ ≤ (16 + m) * 2 ^ (k + 4) := Nat.mul_le_mul_right _ (by omega)
    _ = alawL (k + 1) m := (alawL_succ k m).symm

/-- Every interval of a segment ends before any of a later segment begins. -/
theorem alawL_ordered_of_seg_lt (seg seg' m m' : Nat) (hm : m < 16) (h : seg < seg') :
    alawL seg m + alawW seg ≤ alawL seg' m' := by
  obtain ⟨k, rfl⟩ : ∃ k, seg' = k + 1 := ⟨seg' - 1, by omega⟩
  calc alawL seg m + alawW seg ≤ 2 ^ (seg + 8) := alawL_add_alawW_le seg m hm
    _ ≤ 2 ^ (k + 8) := Nat.pow_le_pow_right (by decide) (by omega)
    _ ≤ alawL (k + 1) m' := pow_le_alawL_succ k m'

/-- Within a segment an interval ends where the next begins. -/
theorem alawL_ordered_of_m_lt (seg m m' : Nat) (h : m < m') : alawL seg m + alawW seg ≤ alawL seg m' := by
  cases seg with
  | zero => rw [alawL_zero, alawL_zero, alawW_zero]; omega
  | succ k =>
    calc alawL (k + 1) m + alawW (k + 1) = (16 + (m + 1)) * 2 ^ (k + 4) := by rw [alawL_succ, alawW_succ]; ring
      _ ≤ (16 + m') * 2 ^ (k + 4) := Nat.mul_le_mul_right _ (by omega)
      _ = alawL (k + 1) m' := (alawL_succ k m').symm

/-- Two intervals are one, or one ends before the other begins (R92). -/
theorem alaw_intervals_trichotomy (seg m seg' m' : Nat) (hm : m < 16) (hm' : m' < 16) :
    (seg = seg' ∧ m = m') ∨ alawL seg m + alawW seg ≤ alawL seg' m' ∨ alawL seg' m' + alawW seg' ≤ alawL seg m := by
  obtain h | rfl | h := Nat.lt_trichotomy seg seg'
  · exact .inr (.inl (alawL_ordered_of_seg_lt _ _ _ _ hm h))
  · obtain h | rfl | h := Nat.lt_trichotomy m m'
    · exact .inr (.inl (alawL_ordered_of_m_lt _ _ _ h))
    · exact .inl ⟨rfl, rfl⟩
    · exact .inr (.inr (alawL_ordered_of_m_lt _ _ _ h))
  · exact .inr (.inr (alawL_ordered_of_seg_lt _ _ _ _ hm' h))

/-- Every interval ends at or below 32768. -/
theorem alawL_add_alawW_le_32768 (seg m : Nat) (hseg : seg < 8) (hm : m < 16) : alawL seg m + alawW seg ≤ 32768 :=
  (alawL_add_alawW_le seg m hm).trans (Nat.pow_le_pow_right (n := 2) (by decide) (show seg + 8 ≤ 15 by omega))

theorem alawL_lt_32768 (seg m : Nat) (hseg : seg < 8) (hm : m < 16) : alawL seg m < 32768 := by
  have hpos := alawW_pos seg
  have hend := alawL_add_alawW_le_32768 seg m hseg hm
  omega

/-! ### The interval that holds a magnitude -/

/-- `v` is in the interval (R92) of segment `seg` and mantissa `m`. -/
structure AlawHolds (v seg m : Nat) : Prop where
  seg_lt : seg < 8
  m_lt : m < 16
  le : alawL seg m ≤ v
  lt : v < alawL seg m + alawW seg

/-- No two intervals hold one magnitude. -/
theorem AlawHolds.unique {v seg m seg' m' : Nat} (h : AlawHolds v seg m) (h' : AlawHolds v seg' m') :
    seg' = seg ∧ m' = m := by
  have hle := h.le
  have hlt := h.lt
  have hle' := h'.le
  have hlt' := h'.lt
  obtain heq | hord | hord := alaw_intervals_trichotomy seg' m' seg m h'.m_lt h.m_lt
  · exact heq
  · omega
  · omega

theorem alawHolds_of_lt_256 (v : Nat) (hv : v < 256) : AlawHolds v 0 (v / 16) :=
  ⟨by decide, by omega, by rw [alawL_zero]; omega, by rw [alawL_zero, alawW_zero]; omega⟩

/-- In the later segments the quotient by the width is the mantissa with a leading 1. -/
theorem alawHolds_of_div_eq (v k m : Nat) (hk : k < 7) (hm : m < 16) (h : v / 2 ^ (k + 4) = 16 + m) :
    AlawHolds v (k + 1) m := by
  refine ⟨by omega, hm, ?_, ?_⟩
  · rw [alawL_succ, ← h]
    exact Nat.div_mul_le_self _ _
  · rw [alawL_succ, alawW_succ, ← h]
    exact Nat.lt_div_mul_add (by positivity)

theorem alawSegment_of_lt (M : Nat) (h : M < 16) : alawSegment M = 0 := if_pos h

theorem alawSegment_of_pow_le (M k : Nat) (hlow : 2 ^ (k + 4) ≤ M) (hhigh : M < 2 ^ (k + 5)) :
    alawSegment M = k + 1 := by
  have h16 : 16 ≤ 2 ^ (k + 4) := Nat.pow_le_pow_right (n := 2) (i := 4) (by decide) (by omega)
  have hlog : Nat.log2 M = k + 4 := (Nat.log2_eq_iff (by omega)).2 ⟨hlow, hhigh⟩
  rw [alawSegment, if_neg (by omega), msbIndex, hlog]
  omega

theorem alawMantissa_zero (M : Nat) : alawMantissa M 0 = M % 16 := Nat.and_two_pow_sub_one_eq_mod M 4

theorem alawMantissa_succ (M k : Nat) : alawMantissa M (k + 1) = M / 2 ^ k % 16 := by
  rw [alawMantissa, if_neg k.succ_ne_zero, Nat.add_sub_cancel, Nat.shiftRight_eq_div_pow]
  exact Nat.and_two_pow_sub_one_eq_mod _ 4

/-- The stages R82 and R83, on the magnitude index of R81, find the interval that holds the magnitude (R92). -/
theorem alawHolds_stages (v : Nat) (hv : v < 32768) :
    AlawHolds v (alawSegment (v >>> 4)) (alawMantissa (v >>> 4) (alawSegment (v >>> 4))) := by
  rw [show v >>> 4 = v / 16 from Nat.shiftRight_eq_div_pow v 4]
  by_cases hsmall : v < 256
  · rw [alawSegment_of_lt _ (by omega), alawMantissa_zero, Nat.mod_eq_of_lt (by omega)]
    exact alawHolds_of_lt_256 v hsmall
  · have hne : v / 16 ≠ 0 := by omega
    obtain ⟨k, hk⟩ : ∃ k, Nat.log2 (v / 16) = k + 4 :=
      Nat.exists_eq_add_of_le' ((Nat.le_log2 hne).2 (show 2 ^ 4 ≤ v / 16 by omega))
    have hk7 : k + 4 < 11 := hk ▸ (Nat.log2_lt hne).2 (show v / 16 < 2 ^ 11 by omega)
    obtain ⟨hlow, hhigh⟩ := (Nat.log2_eq_iff hne).1 hk
    have hpow : 2 ^ (k + 4) = 16 * 2 ^ k := by ring
    have hquot : v / 2 ^ (k + 4) = v / 16 / 2 ^ k := by
      rw [Nat.div_div_eq_div_mul, Nat.pow_add, Nat.mul_comm]
    have h16 : 16 ≤ v / 16 / 2 ^ k := by
      rw [Nat.le_div_iff_mul_le (by positivity)]
      omega
    have h32 : v / 16 / 2 ^ k < 32 := by
      rw [Nat.div_lt_iff_lt_mul (by positivity)]
      omega
    rw [alawSegment_of_pow_le _ k hlow hhigh, alawMantissa_succ]
    exact alawHolds_of_div_eq v k _ (by omega) (Nat.mod_lt _ (by decide)) (by omega)

end Sys2Proof.Machine
end

section
/-! The A-law unit against its intervals (R92): what the encoder and the decoder give, the six laws (R90), and where the code
depends on NEG_MAG (R91). -/

namespace Sys2Proof.Machine

/-! ### The encoder -/

/-- The code of a sample is that of the interval which holds its magnitude (R88, R92). -/
theorem alawEncode_of_holds (n : NegMag) (x : Sample) (seg m : Nat)
    (h : AlawHolds (encodedMagnitude n 8 x.toInt) seg m) :
    alawEncode n x = maskedByte 0x55#8 (decide (0 ≤ x.toInt)) seg m := by
  obtain ⟨hseg, hm⟩ := h.unique (alawHolds_stages _ (encodedMagnitude_lt n 8 (by decide) x))
  have hmag : alawMagnitude n x.toInt = encodedMagnitude n 8 x.toInt >>> 4 := by
    rw [alawMagnitude, clippedMagnitude_eq n 8 (by decide) x]
  rw [maskedByte_eq_rawByte_xor _ _ _ _ h.seg_lt h.m_lt, ← hm, ← hseg, ← hmag]
  rfl

theorem exists_alawHolds (n : NegMag) (x : Sample) : ∃ seg m, AlawHolds (encodedMagnitude n 8 x.toInt) seg m :=
  ⟨_, _, alawHolds_stages _ (encodedMagnitude_lt n 8 (by decide) x)⟩

/-- Settles O34: the interval that the stages find, and no other, holds the magnitude. -/
theorem alawEncResult : Obligations.AlawEncResult := by
  unfold Obligations.AlawEncResult
  intro s x
  obtain ⟨seg, m, h⟩ := exists_alawHolds s.params.negMag x
  refine ⟨seg, m, h.seg_lt, h.m_lt, h.le, h.lt, fun seg' m' hs hm hle hlt => h.unique ⟨hs, hm, hle, hlt⟩, ?_⟩
  rw [← alawEncode_of_holds _ x seg m h, exec_eq_settle]
  rfl

/-! ### The decoder -/

/-- The centre of an interval, its reconstruction value (R92). -/
def alawCentre (seg m : Nat) : Nat := alawL seg m + alawW seg / 2

/-- The inverse expander of R86 gives the centre of the interval (R92). -/
theorem alawExpand_eq_centre (seg m : Nat) : alawExpand seg m = alawCentre seg m := by
  cases seg with
  | zero => simp only [alawExpand, alawCentre, alawL_zero, alawW_zero, if_pos]; omega
  | succ k =>
    have hhalf : 2 ^ (k + 4) / 2 = 8 * 2 ^ k := by rw [Nat.pow_add]; omega
    rw [alawExpand, if_neg k.succ_ne_zero, alawCentre, alawL_succ, alawW_succ, hhalf, Nat.shiftLeft_eq,
      Nat.shiftLeft_eq, Nat.add_sub_cancel]
    ring

/-- The sample of a code is the centre of its interval, negated if the sign bit is 0 (R87, R92). -/
theorem alawDecode_maskedByte (sign : Bool) (seg m : Nat) (hseg : seg < 8) (hm : m < 16) :
    alawDecode (maskedByte 0x55#8 sign seg m) = applySign (!sign) (alawCentre seg m) := by
  obtain ⟨hrsign, hrseg, hrm⟩ := rawFields_rawByte sign seg m hseg hm
  rw [alawDecode, maskedByte_xor_mask _ _ _ _ hseg hm, hrsign, hrseg, hrm, alawExpand_eq_centre]

/-- Settles O35: every code has its three fields, and the expander gives the centre of their interval. -/
theorem alawDecResult : Obligations.AlawDecResult := by
  unfold Obligations.AlawDecResult
  intro s c
  obtain ⟨sign, seg, m, hseg, hm, rfl⟩ := exists_eq_maskedByte 0x55#8 c
  refine ⟨sign, seg, m, hseg, hm, rfl, ?_⟩
  rw [exec_eq_settle, transact, alawDecTransaction, alawDecode_maskedByte _ _ _ hseg hm]
  cases sign <;> rfl

/-! ### The laws -/

/-- The centre is at least 8 inside its interval, and a multiple of 8. -/
theorem alawCentre_bounds (seg m : Nat) :
    alawL seg m + 8 ≤ alawCentre seg m ∧ alawCentre seg m + 8 ≤ alawL seg m + alawW seg ∧ 8 ∣ alawCentre seg m := by
  have hpos := alawW_pos seg
  have hW := dvd_alawW seg
  have hL := dvd_alawL seg m
  unfold alawCentre
  omega

/-- Every reading of NEG_MAG gives the negative of a multiple of 8 that multiple as its magnitude, or one less. -/
theorem encodedMagnitude_neg_of_dvd (n : NegMag) (a : Nat) (hdvd : 8 ∣ a) (hpos : 0 < a) (hlt : a < 32768) :
    a - 1 ≤ encodedMagnitude n 8 (-(a : Int)) ∧ encodedMagnitude n 8 (-(a : Int)) ≤ a := by
  have hneg : -(a : Int) < 0 := by omega
  cases n with
  | onesComplement => rw [encodedMagnitude_onesComplement_of_neg 8 _ hneg]; omega
  | absolute => rw [encodedMagnitude_absolute_of_neg 8 _ hneg]; omega
  | shiftThenNegate => rw [encodedMagnitude_shiftThenNegate_of_neg 8 _ hneg]; omega

/-- The centre, of either sign, is encoded in its own interval under every NEG_MAG (R90). -/
theorem alawHolds_centre (n : NegMag) (negative : Bool) (seg m : Nat) (hseg : seg < 8) (hm : m < 16) :
    AlawHolds (encodedMagnitude n 8 (applySign negative (alawCentre seg m))) seg m := by
  obtain ⟨hlow, hhigh, hdvd⟩ := alawCentre_bounds seg m
  have hend := alawL_add_alawW_le_32768 seg m hseg hm
  cases negative with
  | false =>
    rw [applySign_false, encodedMagnitude_of_nonneg n 8 _ (Int.natCast_nonneg _), Int.natAbs_natCast]
    exact ⟨hseg, hm, by omega, by omega⟩
  | true =>
    obtain ⟨hge, hle⟩ := encodedMagnitude_neg_of_dvd n (alawCentre seg m) hdvd (by omega) (by omega)
    rw [applySign_true]
    exact ⟨hseg, hm, by omega, by omega⟩

/-- Encoding a decoded code gives the code back (R90). -/
theorem alawEncode_alawDecode (n : NegMag) (c : Code8) : alawEncode n (doutOfSample (alawDecode c)) = c := by
  have habs := natAbs_alawDecode_le c
  have hint := toInt_doutOfSample (alawDecode c) (by omega)
  obtain ⟨sign, seg, m, hseg, hm, rfl⟩ := exists_eq_maskedByte 0x55#8 c
  rw [alawDecode_maskedByte sign seg m hseg hm] at hint ⊢
  have hpos : 0 < alawCentre seg m := Nat.zero_lt_of_lt (alawCentre_bounds seg m).1
  have hholds := alawHolds_centre n (!sign) seg m hseg hm
  rw [← hint] at hholds
  rw [alawEncode_of_holds n _ seg m hholds, hint, decide_nonneg_applySign _ _ hpos, Bool.not_not]

/-- The decoder is odd in the sign bit (R90). -/
theorem alawDecode_xor_0x80 (c : Code8) : alawDecode (c ^^^ 0x80#8) = -alawDecode c := by
  obtain ⟨sign, seg, m, hseg, hm, rfl⟩ := exists_eq_maskedByte 0x55#8 c
  rw [maskedByte_xor_0x80, alawDecode_maskedByte _ _ _ hseg hm, alawDecode_maskedByte _ _ _ hseg hm]
  cases sign <;> simp

/-- The interval of a larger magnitude has no smaller centre. -/
theorem alawCentre_le_of_holds (v v' seg m seg' m' : Nat) (h : AlawHolds v seg m) (h' : AlawHolds v' seg' m')
    (hv : v ≤ v') : alawCentre seg m ≤ alawCentre seg' m' := by
  have hle := h.le
  have hlt' := h'.lt
  have hc := alawCentre_bounds seg m
  have hc' := alawCentre_bounds seg' m'
  obtain ⟨rfl, rfl⟩ | hord | hord := alaw_intervals_trichotomy seg m seg' m' h.m_lt h'.m_lt
  · exact le_rfl
  · omega
  · omega

/-- A sample that is not negative is quantized to the centre of its interval. -/
theorem alawDecode_alawEncode_of_nonneg (n : NegMag) (x : Sample) (seg m : Nat) (hx : 0 ≤ x.toInt)
    (h : AlawHolds (encodedMagnitude n 8 x.toInt) seg m) : alawDecode (alawEncode n x) = alawCentre seg m := by
  rw [alawEncode_of_holds n x seg m h, decide_eq_true hx, alawDecode_maskedByte _ _ _ h.seg_lt h.m_lt]
  rfl

/-- Quantization keeps the order of the samples that are not negative (R90). -/
theorem alawDecode_alawEncode_mono (n : NegMag) (x1 x2 : Sample) (h1 : 0 ≤ x1.toInt) (h12 : x1.toInt ≤ x2.toInt) :
    alawDecode (alawEncode n x1) ≤ alawDecode (alawEncode n x2) := by
  have h2 := h1.trans h12
  obtain ⟨seg1, m1, hh1⟩ := exists_alawHolds n x1
  obtain ⟨seg2, m2, hh2⟩ := exists_alawHolds n x2
  rw [alawDecode_alawEncode_of_nonneg n x1 _ _ h1 hh1, alawDecode_alawEncode_of_nonneg n x2 _ _ h2 hh2]
  rw [encodedMagnitude_of_nonneg _ _ _ h1] at hh1
  rw [encodedMagnitude_of_nonneg _ _ _ h2] at hh2
  exact Int.ofNat_le.2 (alawCentre_le_of_holds _ _ _ _ _ _ hh1 hh2 (by omega))

/-- Settles O36: the laws one by one; idempotence is the round trip, decoded once more. -/
theorem alawLaws : Obligations.AlawLaws := by
  unfold Obligations.AlawLaws
  intro n
  refine ⟨⟨fun x => Nat.le_of_lt_succ (alawEncode n x).isLt, fun c => ?_⟩, ?_, alawEncode_alawDecode n,
    fun c => congrArg alawDecode (alawEncode_alawDecode n c), alawDecode_xor_0x80, alawDecode_alawEncode_mono n⟩
  · have habs := natAbs_alawDecode_le c
    omega
  · exact alawEncode_of_holds n 0#16 0 0 (alawHolds_of_lt_256 0 (by decide))

/-! ### NEG_MAG -/

/-- Samples of one sign have different codes exactly when a threshold lies between their magnitudes, the upper one
included (R92). -/
theorem alawEncode_ne_iff (n n' : NegMag) (x : Sample)
    (hle : encodedMagnitude n 8 x.toInt ≤ encodedMagnitude n' 8 x.toInt) :
    alawEncode n x ≠ alawEncode n' x ↔ ∃ seg m, seg < 8 ∧ m < 16 ∧
      encodedMagnitude n 8 x.toInt < alawL seg m ∧ alawL seg m ≤ encodedMagnitude n' 8 x.toInt := by
  obtain ⟨seg, m, h⟩ := exists_alawHolds n x
  obtain ⟨seg', m', h'⟩ := exists_alawHolds n' x
  rw [alawEncode_of_holds n x seg m h, alawEncode_of_holds n' x seg' m' h']
  constructor
  · intro hne
    refine ⟨seg', m', h'.seg_lt, h'.m_lt, ?_, h'.le⟩
    by_contra hlow
    obtain ⟨rfl, rfl⟩ := h.unique ⟨h'.seg_lt, h'.m_lt, by omega, hle.trans_lt h'.lt⟩
    exact hne rfl
  · rintro ⟨s, t, hs, ht, hlow, hhigh⟩ heq
    obtain ⟨rfl, rfl⟩ := maskedByte_fields_inj _ _ _ _ _ _ h.seg_lt h.m_lt h'.seg_lt h'.m_lt heq
    have hmem := h.le
    have hmem' := h'.lt
    have hpos := alawW_pos s
    obtain ⟨rfl, rfl⟩ | hord | hord := alaw_intervals_trichotomy seg m s t h.m_lt ht
    · omega
    · omega
    · omega

/-- Where two readings of NEG_MAG differ, said by any condition `Q` that says the same of every threshold. -/
theorem alawEncode_ne_iff_of_threshold (n n' : NegMag) (x : Sample) (Q : Nat → Prop)
    (hle : encodedMagnitude n 8 x.toInt ≤ encodedMagnitude n' 8 x.toInt)
    (hQ : ∀ L, 16 ∣ L → L < 32768 →
      (encodedMagnitude n 8 x.toInt < L ∧ L ≤ encodedMagnitude n' 8 x.toInt ↔ Q L)) :
    alawEncode n x ≠ alawEncode n' x ↔ ∃ seg m, seg < 8 ∧ m < 16 ∧ Q (alawL seg m) := by
  rw [alawEncode_ne_iff n n' x hle]
  refine exists_congr fun seg => exists_congr fun m => and_congr_right fun hseg => and_congr_right fun hm => ?_
  exact hQ _ (dvd_alawL seg m) (alawL_lt_32768 seg m hseg hm)

/-- The code depends on NEG_MAG only through the magnitude. -/
theorem alawEncode_congr (n n' : NegMag) (x : Sample)
    (h : encodedMagnitude n 8 x.toInt = encodedMagnitude n' 8 x.toInt) : alawEncode n x = alawEncode n' x := by
  obtain ⟨seg, m, hholds⟩ := exists_alawHolds n x
  rw [alawEncode_of_holds n x seg m hholds, alawEncode_of_holds n' x seg m (h ▸ hholds)]

/-- Settles O37: the thresholds between the magnitudes of two readings, by arithmetic on multiples of 16 below 32768. -/
theorem alawNegMagDependence : Obligations.AlawNegMagDependence := by
  unfold Obligations.AlawNegMagDependence
  refine ⟨fun x n n' hx => alawEncode_congr n n' x ?_, fun c n n' => ?_, fun x hx => ?_⟩
  · rw [encodedMagnitude_of_nonneg n 8 _ hx, encodedMagnitude_of_nonneg n' 8 _ hx]
  · rw [alawEncode_alawDecode, alawEncode_alawDecode]
  · have hlow : -32768 ≤ x.toInt := BitVec.le_toInt x
    have hone := encodedMagnitude_onesComplement_of_neg 8 _ hx
    have habs := encodedMagnitude_absolute_of_neg 8 _ hx
    have hshift := encodedMagnitude_shiftThenNegate_of_neg 8 _ hx
    refine ⟨?_, ?_, ?_⟩
    · exact alawEncode_ne_iff_of_threshold _ _ x (fun L => 0 < L ∧ x.toInt.natAbs = L) (by omega) fun L _ _ => by omega
    · exact alawEncode_ne_iff_of_threshold _ _ x
        (fun L => 0 < L ∧ L < x.toInt.natAbs + 8 ∧ x.toInt.natAbs ≤ L) (by omega) fun L _ _ => by omega
    · exact alawEncode_ne_iff_of_threshold _ _ x
        (fun L => 0 < L ∧ L < x.toInt.natAbs + 8 ∧ x.toInt.natAbs < L) (by omega) fun L _ _ => by omega

end Sys2Proof.Machine
end

section
/-! The mu-law intervals between the decision thresholds (R113): their order, and that the bias, the segment detector and the
mantissa extractor (R102 to R104) find the one interval which holds a magnitude. -/

namespace Sys2Proof.Machine

/-! ### The order of the intervals -/

/-- The formula of R113 gives the first threshold too: its difference, cut off at 0, is 0 there. -/
theorem ulawL_eq (seg m : Nat) : ulawL seg m = 4 * ((16 + m) * 2 ^ (seg + 1) - 33) := by
  unfold ulawL
  split
  next h => obtain ⟨rfl, rfl⟩ := h; rfl
  next => rfl

theorem dvd_ulawL (seg m : Nat) : 4 ∣ ulawL seg m := Dvd.intro _ (ulawL_eq seg m).symm

/-- A segment ends where the next one begins. -/
theorem ulawL_sixteen (seg : Nat) : ulawL seg 16 = ulawL (seg + 1) 0 := by
  have hprod : (16 + 16) * 2 ^ (seg + 1) = (16 + 0) * 2 ^ (seg + 1 + 1) := by ring
  rw [ulawL_eq, ulawL_eq, hprod]

theorem ulawL_mono_m (seg m m' : Nat) (h : m ≤ m') : ulawL seg m ≤ ulawL seg m' := by
  have hprod : (16 + m) * 2 ^ (seg + 1) ≤ (16 + m') * 2 ^ (seg + 1) := Nat.mul_le_mul_right _ (by omega)
  rw [ulawL_eq, ulawL_eq]
  omega

theorem ulawL_mono_seg (seg seg' m : Nat) (h : seg ≤ seg') : ulawL seg m ≤ ulawL seg' m := by
  have hprod : (16 + m) * 2 ^ (seg + 1) ≤ (16 + m) * 2 ^ (seg' + 1) :=
    Nat.mul_le_mul_left _ (Nat.pow_le_pow_right (by decide) (by omega))
  rw [ulawL_eq, ulawL_eq]
  omega

/-- No threshold of a segment is above any of a later segment. -/
theorem ulawL_le_of_seg_lt (seg seg' m m' : Nat) (hm : m ≤ 16) (h : seg < seg') : ulawL seg m ≤ ulawL seg' m' :=
  calc ulawL seg m ≤ ulawL seg 16 := ulawL_mono_m seg m 16 hm
    _ = ulawL (seg + 1) 0 := ulawL_sixteen seg
    _ ≤ ulawL seg' 0 := ulawL_mono_seg _ _ 0 h
    _ ≤ ulawL seg' m' := ulawL_mono_m _ _ _ (Nat.zero_le m')

/-- Below the last interval the next threshold is that of the next mantissa, where mantissa 16 stands for the start of the
next segment. -/
theorem ulawNextL_eq (seg m : Nat) (hm : m < 16) (h : m < 15 ∨ seg < 7) : ulawNextL seg m = ulawL seg (m + 1) := by
  by_cases hm15 : m < 15
  · exact if_pos hm15
  · obtain rfl : m = 15 := by omega
    rw [ulawNextL, if_neg hm15, if_pos (by omega), ulawL_sixteen]

/-- The last interval reaches further than the formula of the thresholds, since larger magnitudes are clipped (R102). -/
theorem ulawL_succ_le_ulawNextL (seg m : Nat) (hseg : seg < 8) (hm : m < 16) : ulawL seg (m + 1) ≤ ulawNextL seg m := by
  by_cases h : m < 15 ∨ seg < 7
  · exact (ulawNextL_eq seg m hm h).ge
  · obtain ⟨rfl, rfl⟩ : seg = 7 ∧ m = 15 := by omega
    decide

/-- Two intervals are one, or one ends before the other begins (R113). -/
theorem ulaw_intervals_trichotomy (seg m seg' m' : Nat) (hseg : seg < 8) (hm : m < 16) (hseg' : seg' < 8)
    (hm' : m' < 16) :
    (seg = seg' ∧ m = m') ∨ ulawNextL seg m ≤ ulawL seg' m' ∨ ulawNextL seg' m' ≤ ulawL seg m := by
  obtain h | rfl | h := Nat.lt_trichotomy seg seg'
  · rw [ulawNextL_eq seg m hm (by omega)]
    exact .inr (.inl (ulawL_le_of_seg_lt _ _ _ _ hm h))
  · obtain h | rfl | h := Nat.lt_trichotomy m m'
    · rw [ulawNextL_eq seg m hm (by omega)]
      exact .inr (.inl (ulawL_mono_m _ _ _ h))
    · exact .inl ⟨rfl, rfl⟩
    · rw [ulawNextL_eq seg m' hm' (by omega)]
      exact .inr (.inr (ulawL_mono_m _ _ _ h))
  · rw [ulawNextL_eq seg' m' hm' (by omega)]
    exact .inr (.inr (ulawL_le_of_seg_lt _ _ _ _ hm' h))

/-- The last threshold is 31612. -/
theorem ulawL_lt_32768 (seg m : Nat) (hseg : seg < 8) (hm : m < 16) : ulawL seg m < 32768 :=
  calc ulawL seg m ≤ ulawL seg 15 := ulawL_mono_m _ _ _ (by omega)
    _ ≤ ulawL 7 15 := ulawL_mono_seg _ _ _ (by omega)
    _ < 32768 := by decide

/-! ### The interval that holds a magnitude -/

/-- `v` is in the interval (R113) of segment `seg` and mantissa `m`. -/
structure UlawHolds (v seg m : Nat) : Prop where
  seg_lt : seg < 8
  m_lt : m < 16
  le : ulawL seg m ≤ v
  lt : v < ulawNextL seg m

/-- No two intervals hold one magnitude. -/
theorem UlawHolds.unique {v seg m seg' m' : Nat} (h : UlawHolds v seg m) (h' : UlawHolds v seg' m') :
    seg' = seg ∧ m' = m := by
  have hle := h.le
  have hlt := h.lt
  have hle' := h'.le
  have hlt' := h'.lt
  obtain heq | hord | hord := ulaw_intervals_trichotomy seg' m' seg m h'.seg_lt h'.m_lt h.seg_lt h.m_lt
  · exact heq
  · omega
  · omega

theorem ulawMantissa_eq (B seg : Nat) : ulawMantissa B seg = B / 2 ^ (seg + 1) % 16 := by
  rw [ulawMantissa, Nat.shiftRight_eq_div_pow]
  exact Nat.and_two_pow_sub_one_eq_mod _ 4

/-- The mantissa is the 4 bits below the leading 1 of B, which the segment locates (R103, R104). -/
theorem div_pow_ulawSegment (B : Nat) (h : 33 ≤ B) :
    B / 2 ^ (ulawSegment B + 1) = 16 + ulawMantissa B (ulawSegment B) := by
  have hne : B ≠ 0 := by omega
  obtain ⟨k, hk⟩ : ∃ k, Nat.log2 B = k + 5 :=
    Nat.exists_eq_add_of_le' ((Nat.le_log2 hne).2 (show 2 ^ 5 ≤ B by omega))
  obtain ⟨hlow, hhigh⟩ := (Nat.log2_eq_iff hne).1 hk
  have hseg : ulawSegment B = k := by rw [ulawSegment, msbIndex, hk, Nat.add_sub_cancel]
  have hpow : 2 ^ (k + 5) = 16 * 2 ^ (k + 1) := by ring
  have hpow' : 2 ^ (k + 5 + 1) = 32 * 2 ^ (k + 1) := by ring
  have h16 : 16 ≤ B / 2 ^ (k + 1) := (Nat.le_div_iff_mul_le (by positivity)).2 (hpow ▸ hlow)
  have h32 : B / 2 ^ (k + 1) < 32 := (Nat.div_lt_iff_lt_mul (by positivity)).2 (hpow' ▸ hhigh)
  rw [hseg, ulawMantissa_eq]
  omega

/-- The stages R103 and R104, on a magnitude that R102 biases and does not clip, find its interval. -/
theorem ulawHolds_of_bias (v B : Nat) (hB : B = v / 4 + 33) (hclip : B ≤ 8191) :
    UlawHolds v (ulawSegment B) (ulawMantissa B (ulawSegment B)) := by
  have hseg := ulawSegment_lt B (by omega) hclip
  have hquot := div_pow_ulawSegment B (by omega)
  have hm : ulawMantissa B (ulawSegment B) < 16 := ulawMantissa_eq B _ ▸ Nat.mod_lt _ (by decide)
  generalize ulawMantissa B (ulawSegment B) = m at *
  generalize ulawSegment B = seg at *
  have hlow : (16 + m) * 2 ^ (seg + 1) ≤ B := hquot ▸ Nat.div_mul_le_self _ _
  have hhigh : B < (16 + (m + 1)) * 2 ^ (seg + 1) := (Nat.div_lt_iff_lt_mul (by positivity)).1 (by omega)
  have hnext := ulawL_succ_le_ulawNextL seg m hseg hm
  rw [ulawL_eq] at hnext
  refine ⟨hseg, hm, ?_, by omega⟩
  rw [ulawL_eq]
  omega

/-- The stages R102 to R104, on the 14-bit magnitude of R101, find the interval that holds the magnitude (R113). -/
theorem ulawHolds_stages (v : Nat) (hv : v < 32768) :
    UlawHolds v (ulawSegment (ulawBias (v >>> 2)))
      (ulawMantissa (ulawBias (v >>> 2)) (ulawSegment (ulawBias (v >>> 2)))) := by
  have hbias : ulawBias (v >>> 2) = min (v / 4 + 33) 8191 := by rw [ulawBias, Nat.shiftRight_eq_div_pow]
  by_cases hclip : v / 4 + 33 ≤ 8191
  · exact ulawHolds_of_bias v _ (by omega) (by omega)
  · have hL : ulawL 7 15 = 31612 := by decide
    have hB : ulawBias (v >>> 2) = 8191 := by omega
    have hseg : ulawSegment 8191 = 7 := by decide
    have hm : ulawMantissa 8191 7 = 15 := by decide
    rw [hB, hseg, hm]
    exact ⟨by decide, by decide, by omega, hv⟩

end Sys2Proof.Machine
end

section
/-! The mu-law unit against its intervals (R113): what the encoder and the decoder give, the six laws (R111), and where the
code depends on NEG_MAG (R112). -/

namespace Sys2Proof.Machine

/-! ### The encoder -/

/-- The code of a sample is that of the interval which holds its magnitude (R109, R113). -/
theorem ulawEncode_of_holds (n : NegMag) (x : Sample) (seg m : Nat)
    (h : UlawHolds (encodedMagnitude n 4 x.toInt) seg m) :
    ulawEncode n x = maskedByte 0xFF#8 (decide (x.toInt < 0)) seg m := by
  obtain ⟨hseg, hm⟩ := h.unique (ulawHolds_stages _ (encodedMagnitude_lt n 4 (by decide) x))
  have hmag : ulawMagnitude n x.toInt = encodedMagnitude n 4 x.toInt >>> 2 := by
    rw [ulawMagnitude, clippedMagnitude_eq n 4 (by decide) x]
  rw [maskedByte_eq_rawByte_xor _ _ _ _ h.seg_lt h.m_lt, ← hm, ← hseg, ← hmag]
  rfl

theorem exists_ulawHolds (n : NegMag) (x : Sample) : ∃ seg m, UlawHolds (encodedMagnitude n 4 x.toInt) seg m :=
  ⟨_, _, ulawHolds_stages _ (encodedMagnitude_lt n 4 (by decide) x)⟩

/-- Settles O38: the interval that the stages find, and no other, holds the magnitude. -/
theorem ulawEncResult : Obligations.UlawEncResult := by
  unfold Obligations.UlawEncResult
  intro s x
  obtain ⟨seg, m, h⟩ := exists_ulawHolds s.params.negMag x
  refine ⟨seg, m, h.seg_lt, h.m_lt, h.le, h.lt, fun seg' m' hs hm hle hlt => h.unique ⟨hs, hm, hle, hlt⟩, ?_⟩
  rw [← ulawEncode_of_holds _ x seg m h, exec_eq_settle]
  rfl

/-! ### The decoder -/

/-- The inverse expander of R107 gives the reconstruction value of R113. -/
theorem ulawExpand_eq_ulawT (seg m : Nat) : ulawExpand seg m = ulawT seg m := by
  have hscaled : ((m <<< 3) + 132) <<< seg = 4 * ((2 * m + 33) * 2 ^ seg) := by
    rw [Nat.shiftLeft_eq, Nat.shiftLeft_eq]
    ring
  unfold ulawExpand ulawT
  omega

/-- The sample of a code is its reconstruction value, negated if the raw sign bit is 1 (R108, R113). -/
theorem ulawDecode_maskedByte (sign : Bool) (seg m : Nat) (hseg : seg < 8) (hm : m < 16) :
    ulawDecode (maskedByte 0xFF#8 sign seg m) = applySign sign (ulawT seg m) := by
  obtain ⟨hrsign, hrseg, hrm⟩ := rawFields_rawByte sign seg m hseg hm
  rw [ulawDecode, maskedByte_xor_mask _ _ _ _ hseg hm, hrsign, hrseg, hrm, ulawExpand_eq_ulawT]

/-- Settles O39: every code has its three fields, and the expander gives the reconstruction value of the last two. -/
theorem ulawDecResult : Obligations.UlawDecResult := by
  unfold Obligations.UlawDecResult
  intro s c
  obtain ⟨sign, seg, m, hseg, hm, rfl⟩ := exists_eq_maskedByte 0xFF#8 c
  refine ⟨sign, seg, m, hseg, hm, rfl, ?_⟩
  rw [exec_eq_settle, transact, ulawDecTransaction, ulawDecode_maskedByte _ _ _ hseg hm]
  cases sign <;> rfl

/-! ### Reconstruction values in their intervals -/

theorem dvd_ulawT (seg m : Nat) : 4 ∣ ulawT seg m := dvd_mul_right _ _

theorem le_ulawT_factor (seg m : Nat) : 2 * m + 33 ≤ (2 * m + 33) * 2 ^ seg := Nat.le_mul_of_pos_right _ (by positivity)

/-- The reconstruction value is below the end of its interval by 4 or more, and above its start unless both are 0. -/
theorem ulawT_bounds (seg m : Nat) (hseg : seg < 8) (hm : m < 16) :
    ulawL seg m ≤ ulawT seg m - 1 ∧ ulawT seg m + 4 ≤ ulawNextL seg m := by
  have hhalf : 0 < 2 ^ seg := by positivity
  have hfactor := le_ulawT_factor seg m
  have hlow : (16 + m) * 2 ^ (seg + 1) + 2 ^ seg = (2 * m + 33) * 2 ^ seg := by ring
  have hhigh : (16 + (m + 1)) * 2 ^ (seg + 1) = (2 * m + 33) * 2 ^ seg + 2 ^ seg := by ring
  have hnext := ulawL_succ_le_ulawNextL seg m hseg hm
  rw [ulawL_eq, hhigh] at hnext
  rw [ulawL_eq, ulawT]
  omega

/-- Only the first interval is reconstructed as 0 (R111). -/
theorem fields_eq_zero_of_ulawT_eq_zero (seg m : Nat) (h : ulawT seg m = 0) : seg = 0 ∧ m = 0 := by
  have hfactor := le_ulawT_factor seg m
  unfold ulawT at h
  cases seg with
  | zero => omega
  | succ k =>
    have hdouble : (2 * m + 33) * 2 ^ (k + 1) = 2 * ((2 * m + 33) * 2 ^ k) := by ring
    have hfactor' := le_ulawT_factor k m
    omega

/-- Every reading of NEG_MAG gives a multiple of 4, of either sign, that multiple as its magnitude, or one less. -/
theorem encodedMagnitude_applySign_of_dvd (n : NegMag) (negative : Bool) (a : Nat) (hdvd : 4 ∣ a) (hlt : a < 32768) :
    a - 1 ≤ encodedMagnitude n 4 (applySign negative a) ∧ encodedMagnitude n 4 (applySign negative a) ≤ a := by
  have habs := natAbs_applySign negative a
  by_cases hx : 0 ≤ applySign negative a
  · rw [encodedMagnitude_of_nonneg n 4 _ hx]
    omega
  · have hneg : applySign negative a < 0 := Int.not_le.1 hx
    cases n with
    | onesComplement => rw [encodedMagnitude_onesComplement_of_neg 4 _ hneg]; omega
    | absolute => rw [encodedMagnitude_absolute_of_neg 4 _ hneg]; omega
    | shiftThenNegate => rw [encodedMagnitude_shiftThenNegate_of_neg 4 _ hneg]; omega

/-- The reconstruction value, of either sign, is encoded in its own interval under every NEG_MAG (R111). -/
theorem ulawHolds_ulawT (n : NegMag) (negative : Bool) (seg m : Nat) (hseg : seg < 8) (hm : m < 16) :
    UlawHolds (encodedMagnitude n 4 (applySign negative (ulawT seg m))) seg m := by
  obtain ⟨hlow, hhigh⟩ := ulawT_bounds seg m hseg hm
  have hmax : ulawT seg m ≤ 32124 := ulawExpand_eq_ulawT seg m ▸ ulawExpand_le seg m hseg hm
  obtain ⟨hge, hle⟩ := encodedMagnitude_applySign_of_dvd n negative _ (dvd_ulawT seg m) (by omega)
  exact ⟨hseg, hm, by omega, by omega⟩

/-! ### The laws -/

/-- Decoding and encoding keeps the segment and the mantissa of a code, and takes the sign from the sample (R111). -/
theorem ulawEncode_ulawDecode_maskedByte (n : NegMag) (sign : Bool) (seg m : Nat) (hseg : seg < 8) (hm : m < 16) :
    ulawEncode n (doutOfSample (ulawDecode (maskedByte 0xFF#8 sign seg m))) =
      maskedByte 0xFF#8 (decide (applySign sign (ulawT seg m) < 0)) seg m := by
  have habs := natAbs_ulawDecode_le (maskedByte 0xFF#8 sign seg m)
  have hint := toInt_doutOfSample (ulawDecode (maskedByte 0xFF#8 sign seg m)) (by omega)
  rw [ulawDecode_maskedByte sign seg m hseg hm] at hint ⊢
  have hholds := ulawHolds_ulawT n sign seg m hseg hm
  rw [← hint] at hholds
  rw [ulawEncode_of_holds n _ seg m hholds, hint]

/-- A signed magnitude has its sign, unless it is the negative zero. -/
theorem decide_applySign_lt_zero (negative : Bool) (mag : Nat) (h : negative = true → 0 < mag) :
    decide (applySign negative mag < 0) = negative := by
  cases negative with
  | false => exact decide_eq_false (Int.not_lt.2 (Int.natCast_nonneg mag))
  | true =>
    have hpos := h rfl
    exact decide_eq_true (by rw [applySign_true]; omega)

theorem applySign_decide_lt_zero (negative : Bool) (mag : Nat) :
    applySign (decide (applySign negative mag < 0)) mag = applySign negative mag := by
  cases mag with
  | zero => cases negative <;> rfl
  | succ k => rw [decide_applySign_lt_zero _ _ fun _ => k.succ_pos]

/-- Encoding a decoded code gives the code back, but for the negative zero (R111, conflict C5). -/
theorem ulawEncode_ulawDecode (n : NegMag) (c : Code8) (hc : c ≠ 0x7F#8) :
    ulawEncode n (doutOfSample (ulawDecode c)) = c := by
  obtain ⟨sign, seg, m, hseg, hm, rfl⟩ := exists_eq_maskedByte 0xFF#8 c
  have hpos : sign = true → 0 < ulawT seg m := by
    rintro rfl
    refine Nat.pos_of_ne_zero fun hzero => ?_
    obtain ⟨rfl, rfl⟩ := fields_eq_zero_of_ulawT_eq_zero seg m hzero
    exact hc rfl
  rw [ulawEncode_ulawDecode_maskedByte n sign seg m hseg hm, decide_applySign_lt_zero _ _ hpos]

/-- The code 0x7F is that of a negative zero, which comes back as the positive one (R111). -/
theorem ulaw_negative_zero (n : NegMag) :
    ulawDecode 0x7F#8 = 0 ∧ ulawEncode n (doutOfSample (ulawDecode 0x7F#8)) = 0xFF#8 :=
  ⟨ulawDecode_maskedByte true 0 0 (by decide) (by decide),
    ulawEncode_ulawDecode_maskedByte n true 0 0 (by decide) (by decide)⟩

/-- A second round trip changes no sample (R111). -/
theorem ulawDecode_ulawEncode_ulawDecode (n : NegMag) (c : Code8) :
    ulawDecode (ulawEncode n (doutOfSample (ulawDecode c))) = ulawDecode c := by
  obtain ⟨sign, seg, m, hseg, hm, rfl⟩ := exists_eq_maskedByte 0xFF#8 c
  rw [ulawEncode_ulawDecode_maskedByte n sign seg m hseg hm, ulawDecode_maskedByte _ _ _ hseg hm,
    ulawDecode_maskedByte _ _ _ hseg hm, applySign_decide_lt_zero]

/-- The decoder is odd in the sign bit (R111). -/
theorem ulawDecode_xor_0x80 (c : Code8) : ulawDecode (c ^^^ 0x80#8) = -ulawDecode c := by
  obtain ⟨sign, seg, m, hseg, hm, rfl⟩ := exists_eq_maskedByte 0xFF#8 c
  rw [maskedByte_xor_0x80, ulawDecode_maskedByte _ _ _ hseg hm, ulawDecode_maskedByte _ _ _ hseg hm]
  cases sign <;> simp

/-- The interval of a larger magnitude has no smaller reconstruction value. -/
theorem ulawT_le_of_holds (v v' seg m seg' m' : Nat) (h : UlawHolds v seg m) (h' : UlawHolds v' seg' m')
    (hv : v ≤ v') : ulawT seg m ≤ ulawT seg' m' := by
  have hle := h.le
  have hlt' := h'.lt
  have hT := ulawT_bounds seg m h.seg_lt h.m_lt
  have hT' := ulawT_bounds seg' m' h'.seg_lt h'.m_lt
  obtain ⟨rfl, rfl⟩ | hord | hord := ulaw_intervals_trichotomy seg m seg' m' h.seg_lt h.m_lt h'.seg_lt h'.m_lt
  · exact le_rfl
  · omega
  · omega

/-- A sample that is not negative is quantized to the reconstruction value of its interval. -/
theorem ulawDecode_ulawEncode_of_nonneg (n : NegMag) (x : Sample) (seg m : Nat) (hx : 0 ≤ x.toInt)
    (h : UlawHolds (encodedMagnitude n 4 x.toInt) seg m) : ulawDecode (ulawEncode n x) = ulawT seg m := by
  rw [ulawEncode_of_holds n x seg m h, decide_eq_false (Int.not_lt.2 hx), ulawDecode_maskedByte _ _ _ h.seg_lt h.m_lt,
    applySign_false]

/-- Quantization keeps the order of the samples that are not negative (R111). -/
theorem ulawDecode_ulawEncode_mono (n : NegMag) (x1 x2 : Sample) (h1 : 0 ≤ x1.toInt) (h12 : x1.toInt ≤ x2.toInt) :
    ulawDecode (ulawEncode n x1) ≤ ulawDecode (ulawEncode n x2) := by
  have h2 := h1.trans h12
  obtain ⟨seg1, m1, hh1⟩ := exists_ulawHolds n x1
  obtain ⟨seg2, m2, hh2⟩ := exists_ulawHolds n x2
  rw [ulawDecode_ulawEncode_of_nonneg n x1 _ _ h1 hh1, ulawDecode_ulawEncode_of_nonneg n x2 _ _ h2 hh2]
  rw [encodedMagnitude_of_nonneg _ _ _ h1] at hh1
  rw [encodedMagnitude_of_nonneg _ _ _ h2] at hh2
  exact Int.ofNat_le.2 (ulawT_le_of_holds _ _ _ _ _ _ hh1 hh2 (by omega))

/-- Settles O40: the laws one by one; the code of 0 is the round trip of 0xFF. -/
theorem ulawLaws : Obligations.UlawLaws := by
  unfold Obligations.UlawLaws
  intro n
  refine ⟨⟨fun x => Nat.le_of_lt_succ (ulawEncode n x).isLt, fun c => ?_⟩, ?_, ulawEncode_ulawDecode n,
    ulaw_negative_zero n, ulawDecode_ulawEncode_ulawDecode n, ulawDecode_xor_0x80, ulawDecode_ulawEncode_mono n⟩
  · have habs := natAbs_ulawDecode_le c
    omega
  · exact ulawEncode_ulawDecode n 0xFF#8 (by decide)

/-! ### NEG_MAG -/

/-- The code depends on NEG_MAG only through the magnitude. -/
theorem ulawEncode_congr (n n' : NegMag) (x : Sample)
    (h : encodedMagnitude n 4 x.toInt = encodedMagnitude n' 4 x.toInt) : ulawEncode n x = ulawEncode n' x := by
  obtain ⟨seg, m, hholds⟩ := exists_ulawHolds n x
  rw [ulawEncode_of_holds n x seg m hholds, ulawEncode_of_holds n' x seg m (h ▸ hholds)]

/-- The code of a decoded sample does not depend on NEG_MAG (R112). -/
theorem ulawEncode_ulawDecode_congr (n n' : NegMag) (c : Code8) :
    ulawEncode n (doutOfSample (ulawDecode c)) = ulawEncode n' (doutOfSample (ulawDecode c)) := by
  obtain ⟨sign, seg, m, hseg, hm, rfl⟩ := exists_eq_maskedByte 0xFF#8 c
  rw [ulawEncode_ulawDecode_maskedByte n sign seg m hseg hm, ulawEncode_ulawDecode_maskedByte n' sign seg m hseg hm]

/-- Samples of one sign have different codes exactly when a threshold lies between their magnitudes, the upper one
included (R113). -/
theorem ulawEncode_ne_iff (n n' : NegMag) (x : Sample)
    (hle : encodedMagnitude n 4 x.toInt ≤ encodedMagnitude n' 4 x.toInt) :
    ulawEncode n x ≠ ulawEncode n' x ↔ ∃ seg m, seg < 8 ∧ m < 16 ∧
      encodedMagnitude n 4 x.toInt < ulawL seg m ∧ ulawL seg m ≤ encodedMagnitude n' 4 x.toInt := by
  obtain ⟨seg, m, h⟩ := exists_ulawHolds n x
  obtain ⟨seg', m', h'⟩ := exists_ulawHolds n' x
  rw [ulawEncode_of_holds n x seg m h, ulawEncode_of_holds n' x seg' m' h']
  constructor
  · intro hne
    refine ⟨seg', m', h'.seg_lt, h'.m_lt, ?_, h'.le⟩
    by_contra hlow
    obtain ⟨rfl, rfl⟩ := h.unique ⟨h'.seg_lt, h'.m_lt, by omega, hle.trans_lt h'.lt⟩
    exact hne rfl
  · rintro ⟨s, t, hs, ht, hlow, hhigh⟩ heq
    obtain ⟨rfl, rfl⟩ := maskedByte_fields_inj _ _ _ _ _ _ h.seg_lt h.m_lt h'.seg_lt h'.m_lt heq
    have hmem := h.le
    have hmem' := h'.lt
    have hT := ulawT_bounds s t hs ht
    obtain ⟨rfl, rfl⟩ | hord | hord := ulaw_intervals_trichotomy seg m s t h.seg_lt h.m_lt hs ht
    · omega
    · omega
    · omega

/-- Where two readings of NEG_MAG differ, said by any condition `Q` that says the same of every threshold. -/
theorem ulawEncode_ne_iff_of_threshold (n n' : NegMag) (x : Sample) (Q : Nat → Prop)
    (hle : encodedMagnitude n 4 x.toInt ≤ encodedMagnitude n' 4 x.toInt)
    (hQ : ∀ L, 4 ∣ L → L < 32768 →
      (encodedMagnitude n 4 x.toInt < L ∧ L ≤ encodedMagnitude n' 4 x.toInt ↔ Q L)) :
    ulawEncode n x ≠ ulawEncode n' x ↔ ∃ seg m, seg < 8 ∧ m < 16 ∧ Q (ulawL seg m) := by
  rw [ulawEncode_ne_iff n n' x hle]
  refine exists_congr fun seg => exists_congr fun m => and_congr_right fun hseg => and_congr_right fun hm => ?_
  exact hQ _ (dvd_ulawL seg m) (ulawL_lt_32768 seg m hseg hm)

/-- Settles O41: the thresholds between the magnitudes of two readings, by arithmetic on multiples of 4 below 32768. -/
theorem ulawNegMagDependence : Obligations.UlawNegMagDependence := by
  unfold Obligations.UlawNegMagDependence
  refine ⟨fun x n n' hx => ulawEncode_congr n n' x ?_, fun c n n' => ulawEncode_ulawDecode_congr n n' c, fun x hx => ?_⟩
  · rw [encodedMagnitude_of_nonneg n 4 _ hx, encodedMagnitude_of_nonneg n' 4 _ hx]
  · have hlow : -32768 ≤ x.toInt := BitVec.le_toInt x
    have hone := encodedMagnitude_onesComplement_of_neg 4 _ hx
    have habs := encodedMagnitude_absolute_of_neg 4 _ hx
    have hshift := encodedMagnitude_shiftThenNegate_of_neg 4 _ hx
    refine ⟨?_, ?_, ?_⟩
    · exact ulawEncode_ne_iff_of_threshold _ _ x (fun L => 0 < L ∧ x.toInt.natAbs = L) (by omega) fun L _ _ => by omega
    · exact ulawEncode_ne_iff_of_threshold _ _ x
        (fun L => 0 < L ∧ L < x.toInt.natAbs + 4 ∧ x.toInt.natAbs ≤ L) (by omega) fun L _ _ => by omega
    · exact ulawEncode_ne_iff_of_threshold _ _ x
        (fun L => 0 < L ∧ L < x.toInt.natAbs + 4 ∧ x.toInt.natAbs < L) (by omega) fun L _ _ => by omega

end Sys2Proof.Machine
end

section
/-! The stages of the ADPCM unit against the terms of their rules: the step lookup (R121, R122), the quantizer (R124), the
reconstruction (R125), the two saturating updates (R126, R127) and the code (R128, R129). -/

namespace Sys2Proof.Machine

/-! ### The step lookup and the reconstruction -/

theorem adpcmStep_eq_stepAt (iu : Nat) : adpcmStep iu = stepAt iu :=
  (List.getD_eq_getElem _ _ _).symm

theorem adpcmRecon_eq (step : Nat) (d : BitVec 3) : adpcmRecon step d = step / 8 + quantizerQ step d := by
  simp only [adpcmRecon, quantizerQ, Nat.shiftRight_eq_div_pow, Nat.add_assoc]

/-- diffq at the step of an index is the adjustment of that index (R122, R125). -/
theorem adpcmRecon_adpcmStep (iu : Nat) (d : BitVec 3) : adpcmRecon (adpcmStep iu) d = adjustmentAt iu d := by
  rw [adpcmRecon_eq, adpcmStep_eq_stepAt]
  rfl

/-! ### The quantizer -/

/-- A delta is the binary number of its three bits. -/
theorem toNat_eq_bits (d : BitVec 3) :
    d.toNat = (if d.getLsbD 2 then 4 else 0) + (if d.getLsbD 1 then 2 else 0) + (if d.getLsbD 0 then 1 else 0) := by
  revert d; decide

/-- Each bit of delta says whether the magnitude that is left reaches its threshold (R124). -/
theorem adpcmQuantize_bits (mag step r2 r1 : Nat) (h2 : r2 = if step ≤ mag then mag - step else mag)
    (h1 : r1 = if step / 2 ≤ r2 then r2 - step / 2 else r2) :
    (adpcmQuantize mag step).getLsbD 2 = decide (step ≤ mag) ∧
    (adpcmQuantize mag step).getLsbD 1 = decide (step / 2 ≤ r2) ∧
    (adpcmQuantize mag step).getLsbD 0 = decide (step / 4 ≤ r1) := by
  subst h1 h2
  simp only [adpcmQuantize, decide_eq_true_eq, Nat.shiftRight_eq_div_pow, Nat.reducePow]
  split_ifs <;> simp [*]

/-- The quantizer gives the largest delta whose threshold the magnitude reaches (R124): since step/4 ≤ step/2 and
step/2 + step/4 ≤ step, subtracting the largest threshold first loses nothing. -/
theorem quantizerQ_le_iff (mag step : Nat) (e : BitVec 3) :
    quantizerQ step e ≤ mag ↔ e.toNat ≤ (adpcmQuantize mag step).toNat := by
  obtain ⟨hb2, hb1, hb0⟩ := adpcmQuantize_bits mag step _ _ rfl rfl
  rw [toNat_eq_bits e, toNat_eq_bits (adpcmQuantize mag step), hb2, hb1, hb0, quantizerQ]
  simp only [decide_eq_true_eq]
  split_ifs <;> omega

/-- Settles O48: the reference encoder and diffq add the thresholds of the same three comparisons. -/
theorem referenceEncoderEquivalence : Obligations.ReferenceEncoderEquivalence := by
  unfold Obligations.ReferenceEncoderEquivalence
  intro mag step
  obtain ⟨hb2, hb1, hb0⟩ := adpcmQuantize_bits mag step _ _ rfl rfl
  rw [adpcmRecon_eq, quantizerQ, hb2, hb1, hb0, referenceRecon]
  simp only [decide_eq_true_eq]
  split_ifs <;> omega

end Sys2Proof.Machine
end

section
/-! The two saturating updates of the ADPCM unit (R126, R127), its code (R128, R129), and the results of ADPCM.ENC (R130) and
ADPCM.DEC (R131). -/

namespace Sys2Proof.Machine

/-! ### The predictor and the index that an operation leaves -/

theorem adpcmPredict_eq (pred : Int) (neg : Bool) (adj : Nat) :
    adpcmPredict pred neg adj = saturatedPredictor pred neg adj := by
  have hsum : pred + applySign neg adj = if neg then pred - adj else pred + adj := by cases neg <;> rfl
  rw [adpcmPredict, saturatedPredictor, clamp, hsum]
  omega

theorem romAdj_eq_indexMove (d : BitVec 3) : romAdj d = indexMove d := by
  revert d; decide

theorem adpcmBase_eq (m : IdxOor) (iu : Nat) : adpcmBase m iu = if m = .clampFirst then min iu 88 else iu := by
  cases m <;> rfl

theorem adpcmNextIndex_eq (m : IdxOor) (iu : Nat) (d : BitVec 3) :
    (adpcmNextIndex (adpcmBase m iu) d : Int) = steppedIndex m iu d := by
  rw [adpcmNextIndex, romAdj_eq_indexMove, adpcmBase_eq, steppedIndex, clamp]
  omega

section Update

variable (m : IdxOor) (st : StWord) (neg : Bool) (d : BitVec 3)

/-- ST_OUT of the machine's stages is that of the rules' terms (R121, R122, R125, R126, R127). -/
theorem adpcmUpdate_eq_adpcmStOut : adpcmUpdate m st neg d = adpcmStOut m st neg d := by
  rw [adpcmUpdate, adpcmRecon_adpcmStep, adpcmPredict_eq, ← BitVec.ofInt_natCast, adpcmNextIndex_eq]
  rfl

/-- The new predictor is the saturated one (R126), which fits its field. -/
theorem toInt_stPred_adpcmUpdate : (stPred (adpcmUpdate m st neg d)).toInt =
    saturatedPredictor (stPred st).toInt neg (adjustmentAt (stIdx st).toNat d) := by
  have hbounds := adpcmPredict_bounds (stPred st).toInt neg (adjustmentAt (stIdx st).toNat d)
  rw [adpcmUpdate, stPred_packSt, adpcmRecon_adpcmStep, ← adpcmPredict_eq]
  exact BitVec.toInt_ofInt_eq_self (by decide) (by omega) (by omega)

/-- The new index is the clamped one (R127), which fits its field. -/
theorem toNat_stIdx_adpcmUpdate : ((stIdx (adpcmUpdate m st neg d)).toNat : Int) = steppedIndex m (stIdx st).toNat d := by
  have hle := adpcmNextIndex_le (adpcmBase m (stIdx st).toNat) d
  rw [adpcmUpdate, stIdx_packSt, BitVec.toNat_ofNat, Nat.mod_eq_of_lt (by omega), adpcmNextIndex_eq]

end Update

/-! ### The code -/

theorem toNat_adpcmCode (neg : Bool) (d : BitVec 3) : (adpcmCode neg d).toNat = (if neg then 8 else 0) + d.toNat := by
  cases neg <;> revert d <;> decide

/-- Delta is the code modulo 8 (R129). -/
theorem toNat_adpcmCode_mod (neg : Bool) (d : BitVec 3) : (adpcmCode neg d).toNat % 8 = d.toNat := by
  have hlt := d.isLt
  rw [toNat_adpcmCode]
  split <;> omega

/-- Every code is assembled from its sign and its delta (R129). -/
theorem adpcmCode_split (c : Code4) : adpcmCode (adpcmCodeNeg c) (adpcmCodeDelta c) = c := by
  revert c; decide

theorem toNat_code4 (c : Code4) : c.toNat = (if adpcmCodeNeg c then 8 else 0) + (adpcmCodeDelta c).toNat := by
  rw [← toNat_adpcmCode, adpcmCode_split]

theorem toNat_doutOfCode4 (c : Code4) : (doutOfCode4 c).toNat = c.toNat :=
  BitVec.toNat_setWidth_of_le (by decide)

theorem doutOfCode4_adpcmCode (neg : Bool) (d : BitVec 3) :
    doutOfCode4 (adpcmCode neg d) = BitVec.ofNat 16 ((if neg then 8 else 0) + d.toNat) := by
  rw [← toNat_adpcmCode, doutOfCode4, BitVec.ofNat_toNat]

/-- Delta is in the low bits of the DOUT that ADPCM.ENC drives (R63, R128). -/
theorem extractLsb'_doutOfCode4 (neg : Bool) (d : BitVec 3) : (doutOfCode4 (adpcmCode neg d)).extractLsb' 0 3 = d := by
  cases neg <;> revert d <;> decide

/-! ### The two operations -/

/-- The encoder's delta is the largest whose threshold the difference reaches (R123, R124). -/
theorem quantizerQ_le_iff_le_adpcmDelta (x : Sample) (st : StWord) (e : BitVec 3) :
    quantizerQ (stepAt (stIdx st).toNat) e ≤ (adpcmDiff x st).natAbs ↔ e.toNat ≤ (adpcmDelta x st).toNat := by
  rw [adpcmDelta, adpcmStep_eq_stepAt]
  exact quantizerQ_le_iff _ _ e

/-- Settles O42: the quantizer's delta is the largest whose threshold is reached, and ST_OUT is that of the rules' terms. -/
theorem adpcmEncResult : Obligations.AdpcmEncResult := by
  unfold Obligations.AdpcmEncResult
  intro s x
  have hlargest := quantizerQ_le_iff_le_adpcmDelta x s.st
  refine ⟨adpcmDiff x s.st, adpcmDelta x s.st, rfl, (hlargest _).2 le_rfl, fun e he => (hlargest e).1 he, ?_⟩
  rw [exec_eq_settle, transact, adpcmEncTransaction, doutOfCode4_adpcmCode, adpcmUpdate_eq_adpcmStOut, settle_ok]
  simp only [adpcmNeg, decide_eq_true_eq]
  rfl

/-- Settles O43: every code is its sign and its delta, and ST_OUT is that of the rules' terms. -/
theorem adpcmDecResult : Obligations.AdpcmDecResult := by
  unfold Obligations.AdpcmDecResult
  intro s c
  refine ⟨adpcmCodeNeg c, adpcmCodeDelta c, _, toNat_code4 c, rfl, ?_⟩
  rw [exec_eq_settle, transact, adpcmDecTransaction, adpcmUpdate_eq_adpcmStOut, settle_ok]
  rfl

end Sys2Proof.Machine
end

section
/-! Properties of ADPCM streams and codes: encoder and decoder run in step (R132), the state stays in range (R133), what the
new state depends on for a legal index (R134) and for any other (R121), and when code 8 occurs (R128). -/

namespace Sys2Proof.Machine

/-! ### Encoder and decoder -/

/-- Decoding the encoder's code from the encoder's state gives the encoder's new predictor and state (R132). -/
theorem transact_adpcmDec_of_adpcmEnc (p : Config) (x : Sample) (st st' : StWord) (d : Dout)
    (h : transact p (.adpcmEnc x) st = .ok d st') :
    transact p (.adpcmDec (d.setWidth 4)) st = .ok (stPred st') st' := by
  cases h
  simp only [transact, adpcmDecTransaction, code4_of_dout, adpcmCodeNeg_code, adpcmCodeDelta_code]

theorem encodingStream_length (p : Config) (st : StWord) (xs : List Sample) :
    (threadStream p st (encodingStream xs)).length = xs.length := by
  rw [threadStream_length, encodingStream, List.length_map]
  rintro i hi
  obtain ⟨x, -, rfl⟩ := List.mem_map.1 hi
  rfl

/-- The decoding stream passes through the encoding stream's states, and its samples are their predictors (R132). -/
theorem threadStream_decodingStream (p : Config) (st : StWord) (xs : List Sample) :
    threadStream p st (decodingStream (threadStream p st (encodingStream xs))) =
      (threadStream p st (encodingStream xs)).map fun r => (stPred r.2, r.2) := by
  induction xs generalizing st with
  | nil => rfl
  | cons x xs ih =>
    obtain ⟨d, st', henc⟩ := transact_ok_of_not_reserved p (.adpcmEnc x) st rfl
    have hdec := transact_adpcmDec_of_adpcmEnc p x st st' d henc
    have hthread : threadStream p st (encodingStream (x :: xs)) = (d, st') :: threadStream p st' (encodingStream xs) :=
      threadStream_cons_of_ok p st st' _ _ d henc
    rw [hthread, List.map_cons, ← ih st']
    exact threadStream_cons_of_ok p st st' _ _ _ hdec

/-- Settles O44: one transaction, and the induction over the samples. -/
theorem encoderDecoderSynchronised : Obligations.EncoderDecoderSynchronised := by
  unfold Obligations.EncoderDecoderSynchronised
  exact fun p => ⟨transact_adpcmDec_of_adpcmEnc p, fun st xs =>
    ⟨encodingStream_length p st xs, threadStream_decodingStream p st xs⟩⟩

/-! ### Bounds of the state -/

/-- An ADPCM operation completes, and its ST_OUT is the update that both share, for some sign and delta (R130, R131). -/
theorem transact_adpcm (p : Config) (i : Instr) (st : StWord) (hi : (∃ x, i = .adpcmEnc x) ∨ ∃ c, i = .adpcmDec c) :
    ∃ (d : Dout) (neg : Bool) (delta : BitVec 3), transact p i st = .ok d (adpcmUpdate p.idxOor st neg delta) := by
  obtain ⟨x, rfl⟩ | ⟨c, rfl⟩ := hi
  · exact ⟨_, _, _, rfl⟩
  · exact ⟨_, _, _, rfl⟩

/-- Whatever every transaction of a stream makes true of ST_OUT holds of all its results. -/
theorem forall_mem_threadStream (p : Config) (Q : StWord → Prop) (is : List Instr) (st : StWord)
    (h : ∀ i ∈ is, ∀ (st st' : StWord) (d : Dout), transact p i st = .ok d st' → Q st') :
    ∀ r ∈ threadStream p st is, Q r.2 := by
  induction is generalizing st with
  | nil => intro r hr; cases hr
  | cons i is ih =>
    obtain ⟨hi, hrest⟩ := List.forall_mem_cons.1 h
    cases ho : transact p i st with
    | ok d st' =>
      rw [threadStream_cons_of_ok p st st' i is d ho]
      exact List.forall_mem_cons.2 ⟨hi st st' d ho, ih st' hrest⟩
    | refused reason =>
      intro r hr
      simp [threadStream, ho] at hr

/-- The ranges of R133: those of a predictor and of a legal index. -/
def InAdpcmRange (st : StWord) : Prop :=
  (stIdx st).toNat ≤ 88 ∧ -32768 ≤ (stPred st).toInt ∧ (stPred st).toInt ≤ 32767

theorem adpcmUpdate_inRange (m : IdxOor) (st : StWord) (neg : Bool) (delta : BitVec 3) :
    InAdpcmRange (adpcmUpdate m st neg delta) := by
  have hpred := adpcmPredict_bounds (stPred st).toInt neg (adjustmentAt (stIdx st).toNat delta)
  rw [adpcmPredict_eq, ← toInt_stPred_adpcmUpdate m] at hpred
  exact ⟨(legal_iff _).1 (adpcmUpdate_legal m st neg delta), hpred⟩

/-- Settles O45: ST_OUT of every ADPCM operation is in range (R126, R127), hence every state of a stream of them is. -/
theorem adpcmStateBounds : Obligations.AdpcmStateBounds := by
  unfold Obligations.AdpcmStateBounds
  refine ⟨fun i s hi => ?_, fun p st is his => ?_⟩
  · obtain ⟨d, neg, delta, ho⟩ := transact_adpcm s.params i s.st hi
    exact ⟨complete d (adpcmUpdate s.params.idxOor s.st neg delta) s, by rw [exec_eq_settle, ho, settle_ok],
      adpcmUpdate_inRange _ _ _ _⟩
  · refine forall_mem_threadStream p InAdpcmRange is st fun i hi st st' d h => ?_
    obtain ⟨d', neg, delta, ho⟩ := transact_adpcm p i st (his i hi)
    rw [ho] at h
    cases h
    exact adpcmUpdate_inRange _ _ _ _

/-! ### A legal index -/

theorem adpcmBase_of_le (m : IdxOor) (iu : Nat) (h : iu ≤ 88) : adpcmBase m iu = iu := by
  cases m with
  | clampFirst => exact Nat.min_eq_left h
  | rawSum => rfl

/-- For a legal index the update does not depend on IDX_OOR (R134). -/
theorem adpcmUpdate_congr_of_legal (m m' : IdxOor) (st : StWord) (neg : Bool) (delta : BitVec 3) (h : st.legal = true) :
    adpcmUpdate m st neg delta = adpcmUpdate m' st neg delta := by
  have hidx := (legal_iff st).1 h
  simp only [adpcmUpdate, adpcmBase_of_le _ _ hidx]

/-- For a legal index the index moves by ADJ within 0..88 and the predictor by the adjustment, both read from the code's
number `n` (R134). -/
theorem adpcmUpdate_of_legal (m : IdxOor) (st : StWord) (neg : Bool) (delta : BitVec 3) (n : Nat) (h : st.legal = true)
    (hn : n = (if neg then 8 else 0) + delta.toNat) :
    (stIdx (adpcmUpdate m st neg delta)).toNat =
      (if n % 8 < 4 then (stIdx st).toNat - 1 else min 88 ((stIdx st).toNat + 2 * (n % 8 - 3))) ∧
    (stPred (adpcmUpdate m st neg delta)).toInt = max (-32768) (min 32767 ((stPred st).toInt +
      (if 8 ≤ n then -(adjustmentAt (stIdx st).toNat delta : Int) else adjustmentAt (stIdx st).toNat delta))) := by
  have hidx := (legal_iff st).1 h
  have hlt := delta.isLt
  have hmod : n % 8 = delta.toNat := by split at hn <;> omega
  have hsign : 8 ≤ n ↔ neg = true := by split at hn <;> simp [*]
  have hbase : (if m = .clampFirst then min (stIdx st).toNat 88 else (stIdx st).toNat) = (stIdx st).toNat := by
    rw [← adpcmBase_eq, adpcmBase_of_le m _ hidx]
  constructor
  · have hnext := toNat_stIdx_adpcmUpdate m st neg delta
    rw [steppedIndex, hbase, indexMove] at hnext
    rw [hmod]
    split_ifs at hnext ⊢ <;> omega
  · rw [toInt_stPred_adpcmUpdate, saturatedPredictor]
    simp only [hsign]
    split_ifs <;> omega

/-- Settles O46: the amount the predictor moves by is the adjustment at the step of the old index (R125). -/
theorem indexOnlyDependence : Obligations.IndexOnlyDependence := by
  unfold Obligations.IndexOnlyDependence
  refine ⟨fun p q st h => ⟨fun x => ?_, fun c => ?_⟩,
    fun i delta => adjustmentAt i.toNat delta, fun p st h => ⟨fun c => ?_, fun x => ?_⟩⟩
  · simp only [transact, adpcmEncTransaction, adpcmUpdate_congr_of_legal p.idxOor q.idxOor st _ _ h]
  · simp only [transact, adpcmDecTransaction, adpcmUpdate_congr_of_legal p.idxOor q.idxOor st _ _ h]
  · exact ⟨_, _, rfl, adpcmUpdate_of_legal _ st _ _ _ h (toNat_code4 c)⟩
  · have hcode : (doutOfCode4 (adpcmCode (adpcmNeg x st) (adpcmDelta x st))).toNat =
        (if adpcmNeg x st then 8 else 0) + (adpcmDelta x st).toNat := by
      rw [toNat_doutOfCode4, toNat_adpcmCode]
    have hdelta := (adpcmDelta x st).isLt
    refine ⟨_, _, rfl, ?_, ?_, ?_⟩
    · rw [hcode]
      split <;> omega
    · rw [hcode, adpcmNeg, adpcmDiff]
      simp only [decide_eq_true_eq]
      split <;> omega
    · rw [extractLsb'_doutOfCode4]
      exact adpcmUpdate_of_legal _ st _ _ _ h hcode

/-! ### An index above 88 -/

/-- Under RAW_SUM an index above 88 stays above it by at least ADJ's fall of 1, and is clamped to 88 (R121, R127). -/
theorem adpcmNextIndex_rawSum_of_lt (iu : Nat) (delta : BitVec 3) (h : 88 < iu) :
    adpcmNextIndex (adpcmBase .rawSum iu) delta = 88 := by
  have hnext := adpcmNextIndex_eq .rawSum iu delta
  rw [steppedIndex, if_neg (by decide), indexMove] at hnext
  split_ifs at hnext <;> omega

/-- Under CLAMP_FIRST an index above 88 is 88 in the sum (R121, R127). -/
theorem adpcmNextIndex_clampFirst_of_lt (iu : Nat) (delta : BitVec 3) (h : 88 < iu) :
    adpcmNextIndex (adpcmBase .clampFirst iu) delta = if delta.toNat < 4 then 87 else 88 := by
  have hnext := adpcmNextIndex_eq .clampFirst iu delta
  rw [steppedIndex, if_pos rfl, indexMove] at hnext
  split_ifs at hnext ⊢ <;> omega

/-- For an index above 88 the two readings give the same predictor, and indices that differ only when delta is 0..3. -/
theorem adpcmUpdate_of_not_legal (st : StWord) (neg : Bool) (delta : BitVec 3) (h : st.legal = false) :
    ∃ pred : BitVec 16,
      adpcmUpdate .clampFirst st neg delta = packSt pred (if delta.toNat < 4 then 87#8 else 88#8) ∧
      adpcmUpdate .rawSum st neg delta = packSt pred 88#8 := by
  have hidx : 88 < (stIdx st).toNat := Nat.not_le.1 fun hle => by simp [(legal_iff st).2 hle] at h
  refine ⟨BitVec.ofInt 16 (adpcmPredict (stPred st).toInt neg (adpcmRecon (adpcmStep (stIdx st).toNat) delta)), ?_, ?_⟩
  · rw [adpcmUpdate, adpcmNextIndex_clampFirst_of_lt _ delta hidx, apply_ite (BitVec.ofNat 8)]
  · rw [adpcmUpdate, adpcmNextIndex_rawSum_of_lt _ delta hidx]

/-- Settles O47: DOUT is the code or the predictor, which the two readings share, and delta is the code modulo 8. -/
theorem outOfRangeIndexParameter : Obligations.OutOfRangeIndexParameter := by
  unfold Obligations.OutOfRangeIndexParameter
  intro p q st i hst hp hq hi
  obtain ⟨x, rfl⟩ | ⟨c, rfl⟩ := hi
  · obtain ⟨pred, hclamp, hraw⟩ := adpcmUpdate_of_not_legal st (adpcmNeg x st) (adpcmDelta x st) hst
    refine ⟨doutOfCode4 (adpcmCode (adpcmNeg x st) (adpcmDelta x st)), pred, _, _,
      by rw [transact, adpcmEncTransaction, hp, hclamp],
      by rw [transact, adpcmEncTransaction, hq, hraw], rfl, nofun, ?_⟩
    rintro _ -
    rw [toNat_doutOfCode4, toNat_adpcmCode_mod]
  · obtain ⟨pred, hclamp, hraw⟩ := adpcmUpdate_of_not_legal st (adpcmCodeNeg c) (adpcmCodeDelta c) hst
    refine ⟨pred, pred, _, _,
      by rw [transact, adpcmDecTransaction, hp, hclamp, stPred_packSt],
      by rw [transact, adpcmDecTransaction, hq, hraw, stPred_packSt], rfl, ?_, nofun⟩
    rintro _ ⟨⟩
    rw [← toNat_adpcmCode_mod (adpcmCodeNeg c) (adpcmCodeDelta c), adpcmCode_split]

/-! ### Code 8 -/

/-- ADPCM.ENC gives code 8 exactly when the difference is negative and does not reach the smallest threshold (R124, R128). -/
theorem doutOfCode4_eq_eight_iff (x : Sample) (st : StWord) :
    doutOfCode4 (adpcmCode (adpcmNeg x st) (adpcmDelta x st)) = 8#16 ↔
      -((stepAt (stIdx st).toNat / 4 : Nat) : Int) < adpcmDiff x st ∧ adpcmDiff x st < 0 := by
  have hcode : doutOfCode4 (adpcmCode (adpcmNeg x st) (adpcmDelta x st)) = 8#16 ↔
      adpcmNeg x st = true ∧ (adpcmDelta x st).toNat = 0 := by
    have hlt := (adpcmDelta x st).isLt
    rw [← BitVec.toNat_inj, toNat_doutOfCode4, toNat_adpcmCode]
    cases adpcmNeg x st with
    | false => simp; omega
    | true => simp
  have hfirst := quantizerQ_le_iff_le_adpcmDelta x st 1#3
  have hone : quantizerQ (stepAt (stIdx st).toNat) 1#3 = stepAt (stIdx st).toNat / 4 := by simp [quantizerQ]
  have hsmall : (adpcmDelta x st).toNat = 0 ↔ (adpcmDiff x st).natAbs < stepAt (stIdx st).toNat / 4 := by
    rw [hone, BitVec.toNat_ofNat] at hfirst
    omega
  rw [hcode, hsmall, adpcmNeg, decide_eq_true_iff]
  omega

/-- From index 1 on the step is at least 8 (R44), so the smallest threshold is at least 2. -/
theorem eight_le_stepAt (iu : Nat) (h : 1 ≤ iu) : 8 ≤ stepAt iu := by
  rw [← adpcmStep_eq_stepAt]
  exact eight_le_romStep _ (Fin.le_def.2 (le_min h (by decide)))

/-- Settles O49: at index 0 the smallest threshold is 7 / 4 = 1, which every negative difference reaches; at a higher index
it is at least 2, and sample 0 against predictor 1 gives the difference -1. -/
theorem whenCodeEightOccurs : Obligations.WhenCodeEightOccurs := by
  unfold Obligations.WhenCodeEightOccurs
  refine ⟨fun p x st st' d h => ?_, fun p i hi => ?_⟩
  · cases h
    refine ⟨doutOfCode4_eq_eight_iff x st, fun hidx height => ?_⟩
    obtain ⟨hlow, hneg⟩ := (doutOfCode4_eq_eight_iff x st).1 height
    have hseven : stepAt 0 = 7 := rfl
    rw [hidx, hseven] at hlow
    omega
  · have hstep := eight_le_stepAt i.toNat hi
    have hdiff : adpcmDiff 0#16 (packSt 1#16 i) = -1 := by rw [adpcmDiff, stPred_packSt]; decide
    have height := doutOfCode4_eq_eight_iff 0#16 (packSt 1#16 i)
    rw [stIdx_packSt, hdiff] at height
    exact ⟨0#16, 1#16, _, congrArg (PortOutcome.ok · _) (height.2 (by omega))⟩

end Sys2Proof.Machine
end

section
/-! The outcome of a command (R150 to R152), where a refusal leaves the harness (R33, R34), and that a program cannot tell
one core of a system from another (R156, R177). -/

namespace Sys2Proof.Machine

/-! ### Completion and refusal -/

/-- A reserved op is refused in every stream state, and the refusal records its op value (R151). -/
theorem transact_refused_of_reserved (p : Config) (i : Instr) (st : StWord) (hi : reservedOp i.op = true) :
    transact p i st = .refused (.reservedOp i.op) := by
  cases h : transact p i st with
  | ok d st' => exact absurd (transact_ok_cases p i st st' d h).1 (by simp [hi])
  | refused r => rw [(transact_refused_cases p i st r h).2]

/-- The core completes a word whose op is not reserved (R150). -/
theorem coreTransaction_ok_of_not_reserved (p : Config) (w : CmdWord) (st : StWord) (hw : reservedOp w.op = false) :
    ∃ (d : Dout) (st' : StWord), coreTransaction p w st = .ok d st' :=
  transact_ok_of_not_reserved p (decode w) st (by rwa [op_decode])

/-- The core refuses a word whose op is reserved (R151, R152). -/
theorem coreTransaction_refused_of_reserved (p : Config) (w : CmdWord) (st : StWord) (hw : reservedOp w.op = true) :
    coreTransaction p w st = .refused (.reservedOp w.op) := by
  rw [coreTransaction, transact_refused_of_reserved p (decode w) st (by rwa [op_decode]), op_decode]

/-- Settles O9: decoding keeps the op value, and the outcome of a command is fixed by its op. -/
theorem outcomeDependsOnOpAlone : Obligations.OutcomeDependsOnOpAlone := by
  unfold Obligations.OutcomeDependsOnOpAlone
  exact fun p w st => ⟨coreTransaction_ok_of_not_reserved p w st, coreTransaction_refused_of_reserved p w st⟩

/-- A command with a reserved op steps to the refusal, with the ports driven (R33, R151). -/
theorem step_of_reserved (s : State) (c : CmdWord) (hr : s.refused = false) (hf : fetchItem s = some (.cmd c))
    (hc : reservedOp c.op = true) : step s = .next (refuse (present c s)) := by
  rw [step_of_cmd s c hr hf, transact_refused_of_reserved s.params (decode c) s.st (by rwa [op_decode]), settle_refused]

/-- Settles O10: the step takes the refusal, the ports still hold the refused command, and a refused harness has neither an
observation nor a step. -/
theorem reservedOpEndsRunRefused : Obligations.ReservedOpEndsRunRefused := by
  unfold Obligations.ReservedOpEndsRunRefused
  intro s c hr hf hc
  have hrefused : (refuse (present c s)).refused = true := rfl
  exact ⟨refuse (present c s), step_of_reserved s c hr hf hc, rfl,
    (outputs_refuse_present c s).trans (coreTransaction_refused_of_reserved s.params c s.st hc),
    observation_of_refused _ hrefused, step_of_refused _ hrefused⟩

/-! ### The cores of a system -/

/-- A harness is unchanged by a core that has its own parameters. -/
@[simp] theorem onCore_params_self (s : State) : s.onCore s.params = s := rfl

/-- Every core of a well-formed system has the parameters of every stream (R172, R177). -/
theorem core_eq_stream_params (y : System) (c j : Nat) (s : State) (hy : y.wellFormed = true) (hc : c < y.cores.length)
    (hs : y.streams[j]? = some s) : y.cores[c]? = some s.params := by
  obtain ⟨-, p, -, hcores, hstreams⟩ := (System.wellFormed_iff y).1 hy
  rw [List.getElem?_eq_getElem hc, hcores _ (List.getElem_mem hc), hstreams s (List.mem_of_getElem? hs)]

/-- Settles O32: a stream's step reads its core's parameters only, and those are the stream's own on every core. -/
theorem everyCoreGivesTheSameStep : Obligations.EveryCoreGivesTheSameStep := by
  unfold Obligations.EveryCoreGivesTheSameStep
  intro y c j s hy hc hs
  have hcore : ∀ d, d < y.cores.length → y.cores[d]? = some s.params := fun d hd =>
    core_eq_stream_params y d j s hy hd hs
  refine ⟨fun d hd => ?_, fun t ht => ?_, fun f hf => ?_⟩
  · rw [stepStream_of_get y d j s.params s (hcore d hd) hs, stepStream_of_get y c j s.params s (hcore c hc) hs]
  · exact (stepStream_eq_next_iff y _ c j).2 ⟨s.params, s, t, hcore c hc, hs, by rwa [onCore_params_self], rfl⟩
  · exact (stepStream_eq_fault_iff y c j f).2 ⟨s.params, s, hcore c hc, hs, by rwa [onCore_params_self]⟩

end Sys2Proof.Machine
end
